-- ==== Sys2Proof/Word.lean ====
section
/-! DEFINITION. The word types of FSKDEC. -/

namespace Sys2Proof

/-- A command word or a response word (30_encoding.md R110, 46_host_commands.md R300). -/
abbrev Word := BitVec 32

/-- One payload byte or one byte of the input stream. -/
abbrev Byte := BitVec 8

/-- The encoding of an IEEE 754 binary64 number: sign bit 63, exponent bits 62:52, fraction bits 51:0
(00_scope.md R11, 93_implementation_defined.md G2). -/
abbrev B64 := BitVec 64

end Sys2Proof
end

