-- ==== Sys2Proof/Syntax.lean ====
section
/-! DEFINITION. The six commands (30_encoding.md R112) with the operands R111 gives them, the registers of the
read space by name (10_state.md R60), and the lines of the assembler (30_encoding.md R116, R117). -/

namespace Sys2Proof

/-- One constructor per row of opcode_table.json. An operand carries its own width (30_encoding.md R111), so
every term is a command the block can be sent. -/
inductive Instr where
  | nop
  /-- `s` is the 16-bit pattern DATA[15:0]; the sample is its two's complement value. -/
  | sample (s : BitVec 16)
  /-- `b` is DATA[7:0]. -/
  | byte (b : Byte)
  | eos
  | reset
  /-- `a` is DATA[8:0], a word address of the read space. -/
  | read (a : BitVec 9)
  deriving DecidableEq, Repr

/-- The named registers of 10_state.md R60, in address order. -/
inductive RegName where
  | id | status | bcnt | reslen | rawlen | declen | invcnt | cnt | syncreg | nibst | zrun | cur
  | phaseLo | phaseHi | lobyte | event | evcmd
  | cfgN | cfgSampleRate | cfgDownsampling | cfgFreqMark | cfgFreqSpace | cfgBaud | cfgCapacity
  | cfgStepLo | cfgStepHi
  deriving DecidableEq, Repr

/-- Why a word is not well-formed (30_encoding.md R113). All are rejected alike (46_host_commands.md R309). -/
inductive DecodeError where
  /-- OP is 0x6 to 0xF. -/
  | reservedOp
  /-- RSV is not 0. -/
  | rsvNotZero
  /-- DATA is not 0 in NOP, EOS or RESET. -/
  | dataNotZero
  /-- DATA[15:8] is not 0 in BYTE. -/
  | byteHighNotZero
  /-- DATA[15:9] is not 0 in READ. -/
  | readHighNotZero
  deriving DecidableEq, Repr

/-- A number as the assembler's text writes it: decimal, or hexadecimal with `0x` (30_encoding.md R116). -/
inductive Literal where
  | dec (v : Int)
  | hex (v : Nat)
  deriving DecidableEq, Repr

/-- The operand of `READ`: an address, a register name, or `PAY[i]` (30_encoding.md R116). -/
inductive ReadOperand where
  | addr (a : Literal)
  | reg (r : RegName)
  | pay (i : Literal)
  deriving DecidableEq, Repr

/-- One line of assembler text: a command (30_encoding.md R116) or a pseudo-instruction (R117). Operands are
as written; which are in range is `Line.wellFormed`. -/
inductive Line where
  | nop
  | sample (s : Literal)
  | byte (b : Literal)
  | eos
  | reset
  | read (a : ReadOperand)
  | pcm (s : Literal)
  | zeros (n : Literal)
  | pcmZeros (n : Literal)
  | samples (ss : List Literal)
  | rd (r : RegName)
  deriving DecidableEq, Repr

end Sys2Proof
end

