-- ==== Sys2Proof/WellFormed.lean ====
section
/-! DEFINITION. Which lines of assembler text are well-formed: 30_encoding.md R116, "The assembler refuses an
operand out of range. It never truncates one." A term of `Instr` needs no check, because its operands carry
their widths; which command WORDS are well-formed (R113) is `wellFormedWord` of Decode.lean. -/

namespace Sys2Proof

/-- The number a literal denotes. -/
def Literal.value : Literal → Int
  | .dec v => v
  | .hex v => v

/-- A sample operand: a decimal in -32768..32767, or a 16-bit pattern 0x0000..0xFFFF (30_encoding.md R116). -/
def Literal.isSample : Literal → Bool
  | .dec v => decide (-32768 ≤ v) && decide (v ≤ 32767)
  | .hex v => decide (v ≤ 0xFFFF)

/-- A natural operand in 0..hi. -/
def Literal.isUpTo (hi : Nat) (l : Literal) : Bool :=
  decide (0 ≤ l.value) && decide (l.value ≤ hi)

/-- A count operand n ≥ 0 (30_encoding.md R117). -/
def Literal.isCount (l : Literal) : Bool := decide (0 ≤ l.value)

/-- The operand of READ: an address in 0..0x1FF, any register name, or PAY[i] with 0x100 + i in the read space
(30_encoding.md R116). -/
def ReadOperand.wellFormed : ReadOperand → Bool
  | .addr a => a.isUpTo 0x1FF
  | .reg _ => true
  | .pay i => i.isUpTo 0xFF

/-- The lines the assembler takes (30_encoding.md R116, R117). -/
def Line.wellFormed : Line → Bool
  | .nop | .eos | .reset => true
  | .sample s | .pcm s => s.isSample
  | .byte b => b.isUpTo 0xFF
  | .read a => a.wellFormed
  | .zeros n | .pcmZeros n => n.isCount
  | .samples ss => !ss.isEmpty && ss.all Literal.isSample
  | .rd _ => true

end Sys2Proof
end

