-- ==== Sys2Proof/Decode.lean ====
section
/-! DEFINITION. Command words: their fields, which are well-formed, what each decodes to, and the encoder
(30_encoding.md R110 to R115). -/

namespace Sys2Proof

/-- OP, bits 31:28 (30_encoding.md R110). -/
def opField (w : Word) : BitVec 4 := w.extractLsb' 28 4

/-- RSV, bits 27:16. -/
def rsvField (w : Word) : BitVec 12 := w.extractLsb' 16 12

/-- DATA, bits 15:0. -/
def dataField (w : Word) : BitVec 16 := w.extractLsb' 0 16

/-- DATA[7:0], the operand of BYTE (30_encoding.md R111). -/
def byteField (w : Word) : Byte := w.extractLsb' 0 8

/-- DATA[15:8], 0 in a BYTE. -/
def byteHighField (w : Word) : BitVec 8 := w.extractLsb' 8 8

/-- DATA[8:0], the operand of READ (30_encoding.md R111). -/
def addrField (w : Word) : BitVec 9 := w.extractLsb' 0 9

/-- DATA[15:9], 0 in a READ. -/
def addrHighField (w : Word) : BitVec 7 := w.extractLsb' 9 7

/-- A command without an operand: DATA must be 0 (30_encoding.md R111). -/
def decodeBare (w : Word) (i : Instr) : Except DecodeError Instr :=
  if dataField w = 0 then .ok i else .error .dataNotZero

/-- The opcode map of 30_encoding.md R112 with the checks of R113. -/
def decode (w : Word) : Except DecodeError Instr :=
  if rsvField w ≠ 0 then .error .rsvNotZero
  else if opField w = 0x0 then decodeBare w .nop
  else if opField w = 0x1 then .ok (.sample (dataField w))
  else if opField w = 0x2 then
    if byteHighField w = 0 then .ok (.byte (byteField w)) else .error .byteHighNotZero
  else if opField w = 0x3 then decodeBare w .eos
  else if opField w = 0x4 then decodeBare w .reset
  else if opField w = 0x5 then
    if addrHighField w = 0 then .ok (.read (addrField w)) else .error .readHighNotZero
  else .error .reservedOp

/-- A command word is well-formed when the five conditions of 30_encoding.md R113 hold. -/
def wellFormedWord (w : Word) : Bool :=
  decide (opField w ≤ 0x5)
  && decide (rsvField w = 0)
  && (!(opField w == 0x0 || opField w == 0x3 || opField w == 0x4) || dataField w == 0)
  && (!(opField w == 0x2) || byteHighField w == 0)
  && (!(opField w == 0x5) || addrHighField w == 0)

/-- A word with OP and DATA and with RSV = 0 (30_encoding.md R110). -/
def packWord (op : BitVec 4) (data : BitVec 16) : Word := (op.zeroExtend 32 <<< 28) ||| data.zeroExtend 32

/-- The word of a command (30_encoding.md R110, R112, R115). -/
def encode : Instr → Word
  | .nop => packWord 0x0 0
  | .sample s => packWord 0x1 s
  | .byte b => packWord 0x2 (b.zeroExtend 16)
  | .eos => packWord 0x3 0
  | .reset => packWord 0x4 0
  | .read a => packWord 0x5 (a.zeroExtend 16)

/-- One row of 30_encoding.md R115: a word w is the row's command when `w &&& mask = pattern`. -/
structure EncodingRow where
  mnemonic : String
  mask : Word
  pattern : Word
  deriving DecidableEq, Repr

/-- The match and mask of each legal command (30_encoding.md R115). -/
def encodingRows : List EncodingRow :=
  [ ⟨"NOP", 0xFFFFFFFF, 0x00000000⟩, ⟨"SAMPLE", 0xFFFF0000, 0x10000000⟩, ⟨"BYTE", 0xFFFFFF00, 0x20000000⟩,
    ⟨"EOS", 0xFFFFFFFF, 0x30000000⟩, ⟨"RESET", 0xFFFFFFFF, 0x40000000⟩, ⟨"READ", 0xFFFFFE00, 0x50000000⟩ ]

/-- The row matches the word. -/
def EncodingRow.matchesWord (r : EncodingRow) (w : Word) : Bool := w &&& r.mask == r.pattern

/-- The mnemonic of a command in opcode_table.json. -/
def mnemonic : Instr → String
  | .nop => "NOP"
  | .sample _ => "SAMPLE"
  | .byte _ => "BYTE"
  | .eos => "EOS"
  | .reset => "RESET"
  | .read _ => "READ"

/-- The command whose bits are `w`, by this decoder. A command is one 32-bit word, bit 0 its least significant
bit; bits at or above `nbits` are 0. -/
def decodeTableWord (nbits w : Nat) : Option Instr :=
  (decode (BitVec.ofNat 32 (w % 2 ^ nbits))).toOption

end Sys2Proof
end

