-- ==== Sys2Proof/Config.lean ====
section
/-! DEFINITION. The elaboration-time parameters of the block (00_scope.md R8) and the values the spec leaves free. -/

namespace Sys2Proof

/-- CORR_ALIGN (00_scope.md R8, 92_eei_decisions.md D15): which cursor aligns the reference tables. -/
inductive CorrAlign where
  | after
  | before
  deriving DecidableEq, Repr

/-- REF_ROM, the four reference tables MS, MC, SS, SC (10_state.md R40, 40_correlator.md R152). -/
structure RefRom where
  ms : List B64
  mc : List B64
  ss : List B64
  sc : List B64
  deriving DecidableEq, Repr

/-- The parameters of 00_scope.md R8, fixed for the block's lifetime. Which values are legal is
`Config.legal` (Machine/Params.lean). -/
structure Config where
  freqMark     : Nat
  freqSpace    : Nat
  baud         : Nat
  sampleRate   : Nat
  downsampling : Nat
  capacity     : Nat
  align        : CorrAlign
  rom          : RefRom
  deriving DecidableEq, Repr

/-- FREE VALUE (93_implementation_defined.md U1, log entry 2): `draw4()`, the nibble of the n-th invalid
symbol the block has met. Nothing constrains it. -/
opaque Config.draw4 : Nat → BitVec 4

/-- FREE VALUE (log entry 6): sign and low 51 fraction bits of the NaN that an IEEE 754 operation makes
from two operands. No operation makes a NaN from legal inputs (00_scope.md R11). -/
opaque Config.nanPayload : B64 → B64 → BitVec 52

end Sys2Proof
end

