-- ==== Sys2Proof/Machine/Binary64.lean ====
section
/-! DEFINITION. IEEE 754 binary64 arithmetic, each operation rounded once, to nearest, ties to even
(00_scope.md R11). A finite number is an integer count of units of 2^-1074, the smallest binary64; each operation
computes exactly on integers and rounds at its end. -/

namespace Sys2Proof.Machine

/-- Sign bit 63. -/
def fSign (a : B64) : Bool := a.msb

/-- Biased exponent, bits 62:52. -/
def fExp (a : B64) : Nat := (a.extractLsb' 52 11).toNat

/-- Fraction, bits 51:0. -/
def fFrac (a : B64) : Nat := (a.extractLsb' 0 52).toNat

/-- The encoding without its sign: bits 62:0. It grows with the magnitude. -/
def fMag (a : B64) : Nat := (a.extractLsb' 0 63).toNat

/-- Not a number. -/
def fIsNaN (a : B64) : Bool := fExp a == 2047 && fFrac a != 0

/-- An infinity. -/
def fIsInf (a : B64) : Bool := fExp a == 2047 && fFrac a == 0

/-- Neither an infinity nor a NaN. -/
def fIsFinite (a : B64) : Bool := fExp a != 2047

/-- 2^52, the weight of the significand's hidden bit. -/
def hiddenBit : Nat := 0x10000000000000

/-- 2^1074, how many units make 1.0. -/
def unitsPerOne : Nat := 1 <<< 1074

/-- The magnitude of a finite number in units of 2^-1074. -/
def fUnits (a : B64) : Nat :=
  if fExp a = 0 then fFrac a else (hiddenBit + fFrac a) <<< (fExp a - 1)

/-- The value of a finite number in units of 2^-1074. -/
def fValue (a : B64) : Int := if fSign a then -(fUnits a : Int) else fUnits a

/-- The encoding of the magnitude infinity. -/
def fInfMag : Nat := 2047 * hiddenBit

/-- A sign and a magnitude encoding as one word. -/
def fPack (neg : Bool) (mag : Nat) : B64 :=
  (if neg then 0x8000000000000000 else 0) ||| BitVec.ofNat 64 mag

/-- +0.0 or -0.0. -/
def fZero (neg : Bool) : B64 := fPack neg 0

/-- An infinity. -/
def fInf (neg : Bool) : B64 := fPack neg fInfMag

/-- 0.5, the phase of a transition (42_timing_recovery.md R191). -/
def fHalf : B64 := 0x3FE0000000000000

/-- 1.0, the wrap limit (42_timing_recovery.md R193). -/
def fOne : B64 := 0x3FF0000000000000

/-- A quiet NaN; IEEE 754 leaves its other bits open (log entry 6). -/
def fNaN (a b : B64) : B64 :=
  ((Config.nanPayload a b).extractLsb' 51 1 ++ 0x7FF#11) ++ (1#1 ++ (Config.nanPayload a b).extractLsb' 0 51)

/-- The integer nearest to n / d, ties to even. -/
def roundQuot (n d : Nat) : Nat :=
  if 2 * (n % d) > d ∨ (2 * (n % d) = d ∧ n / d % 2 = 1) then n / d + 1 else n / d

/-- How many low bits of a magnitude of n / d units fall below a 53-bit significand. -/
def ulpShift (n d : Nat) : Nat := (n / d).log2 - 52

/-- The magnitude encoding nearest to n / d units of 2^-1074, ties to even; infinity past the largest finite. A
significand of 53 bits shifted by e encodes as e·2^52 plus itself, subnormals and carries included. -/
def roundMag (n d : Nat) : Nat :=
  min (ulpShift n d * hiddenBit + roundQuot n (d <<< ulpShift n d)) fInfMag

/-- `fl` of an exact number of units of 2^-1074; `negZero` is the sign of an exact zero. -/
def roundUnits (v : Int) (negZero : Bool) : B64 :=
  if v = 0 then fZero negZero else fPack (decide (v < 0)) (roundMag v.natAbs 1)

/-- The other sign. -/
def fNeg (a : B64) : B64 := a ^^^ 0x8000000000000000

/-- `a +f b`. An exact zero sum is -0.0 only for -0.0 + -0.0. -/
def fAdd (a b : B64) : B64 :=
  if fIsNaN a || fIsNaN b then fNaN a b
  else if fIsInf a then (if fIsInf b && fSign a != fSign b then fNaN a b else a)
  else if fIsInf b then b
  else roundUnits (fValue a + fValue b) (fSign a && fSign b)

/-- `a -f b`. -/
def fSub (a b : B64) : B64 := fAdd a (fNeg b)

/-- `a *f b`. -/
def fMul (a b : B64) : B64 :=
  if fIsNaN a || fIsNaN b then fNaN a b
  else if fIsInf a || fIsInf b then
    (if fMag a = 0 ∨ fMag b = 0 then fNaN a b else fInf (fSign a != fSign b))
  else fPack (fSign a != fSign b) (roundMag (fUnits a * fUnits b) unitsPerOne)

/-- `a /f b`. -/
def fDiv (a b : B64) : B64 :=
  if fIsNaN a || fIsNaN b then fNaN a b
  else if fIsInf a then (if fIsInf b then fNaN a b else fInf (fSign a != fSign b))
  else if fIsInf b then fZero (fSign a != fSign b)
  else if fMag b = 0 then (if fMag a = 0 then fNaN a b else fInf (fSign a != fSign b))
  else fPack (fSign a != fSign b) (roundMag (fUnits a * unitsPerOne) (fUnits b))

/-- A key whose integer order is the order of the numbers, the two zeros equal. -/
def fKey (a : B64) : Int := if fSign a then -(fMag a : Int) else fMag a

/-- `a >f b`, the ordered comparison: false when either is a NaN. -/
def fGt (a b : B64) : Bool := !fIsNaN a && !fIsNaN b && decide (fKey b < fKey a)

/-- `fl` of an integer. -/
def fOfInt (v : Int) : B64 := roundUnits (v * unitsPerOne) false

end Sys2Proof.Machine
end

