-- ==== Sys2Proof/Machine/Params.lean ====
section
/-! DEFINITION. The constants derived from the parameters, and which parameters are legal (00_scope.md R8). -/

namespace Sys2Proof

open Sys2Proof.Machine

/-- FS_EFF = fl(SAMPLE_RATE / DOWNSAMPLING) (40_correlator.md R150). -/
def Config.fsEff (c : Config) : B64 := fDiv (fOfInt c.sampleRate) (fOfInt c.downsampling)

/-- N = floor(floor(SAMPLE_RATE / DOWNSAMPLING) / FREQ_MARK), the correlation window (40_correlator.md R151). -/
def Config.window (c : Config) : Nat := c.sampleRate / c.downsampling / c.freqMark

/-- STEP = fl(BAUD / FS_EFF) (42_timing_recovery.md R190). -/
def Config.phaseStep (c : Config) : B64 := fDiv (fOfInt c.baud) c.fsEff

/-- Each of the four tables has N entries (00_scope.md R8, REF_ROM). -/
def Config.romSized (c : Config) : Bool :=
  c.rom.ms.length == c.window && c.rom.mc.length == c.window
  && c.rom.ss.length == c.window && c.rom.sc.length == c.window

/-- 0 < STEP ≤ 1.0 (42_timing_recovery.md R190, "Legal profiles have 0 < STEP ≤ 1.0"). DEDUCED, log entry 8: it
says more than BAUD ≤ SAMPLE_RATE only for a SAMPLE_RATE that binary64 cannot hold. -/
def Config.stepInRange (c : Config) : Bool :=
  fGt c.phaseStep (fZero false) && !fGt c.phaseStep fOne

/-- The legal values of 00_scope.md R8. Any other configuration is refused. -/
def Config.legal (c : Config) : Bool :=
  decide (0 < c.freqMark) && decide (0 < c.freqSpace) && decide (c.freqMark ≠ c.freqSpace)
  && decide (0 < c.baud) && decide (c.baud ≤ c.sampleRate / c.downsampling)
  && decide (0 < c.sampleRate) && decide (c.downsampling = 1)
  && decide (1 ≤ c.capacity) && decide (c.capacity ≤ 256)
  && decide (1 ≤ c.window) && c.romSized && c.stepInRange

/-- The tables 40_correlator.md R152 prints for Bell 202 at 8000 Hz. -/
def RefRom.bell202 : RefRom :=
  { ms := [0x0000000000000000, 0x3FE9E3779B97F4A8, 0x3FEE6F0E134454FF,
           0x3FD3C6EF372FE950, 0xBFE2CF2304755A5E, 0xBFF0000000000000]
    mc := [0x3FF0000000000000, 0x3FE2CF2304755A5E, 0xBFD3C6EF372FE950,
           0xBFEE6F0E134454FF, 0xBFE9E3779B97F4A8, 0x0000000000000000]
    ss := [0x0000000000000000, 0x3FEF9B24942FE45C, 0xBFD3C6EF372FE950,
           0xBFEC83201D3D2C6D, 0x3FE2CF2304755A5E, 0x3FE6A09E667F3BCD]
    sc := [0x3FF0000000000000, 0xBFC4060B67A85375, 0xBFEE6F0E134454FF,
           0x3FDD0E2E2B44DE01, 0x3FE9E3779B97F4A8, 0xBFE6A09E667F3BCD] }

/-- Bell 202 at 8000 Hz with the defaults of 00_scope.md R8, the profile of 95_test_vectors.md. PRESUMED
(00_scope.md R9, 93_implementation_defined.md G1), log entry 1. -/
def Config.bell202 : Config :=
  { freqMark := 1200, freqSpace := 2200, baud := 1200, sampleRate := 8000, downsampling := 1,
    capacity := 256, align := .after, rom := RefRom.bell202 }

end Sys2Proof
end

