-- ==== Sys2Proof/Machine/State.lean ====
section
/-! DEFINITION. The state of the block (10_state.md), grouped as the spec groups it, and the state after reset
(10_state.md R57). -/

namespace Sys2Proof.Machine

/-- RES, the session result (10_state.md R32). Codes 6 and 7 are never held. -/
inductive Result where
  | running | success | degraded | noResultExhausted | noResultSilence | overflow
  deriving DecidableEq, Repr

/-- The value of EVCODE (60_exceptions.md R340). Codes 8 to 15 are never held. -/
inductive Event where
  | none | streamExhausted | silenceTimeout | invalidNibble | malformedLengthField | bufferOverflow
  | illegalCommand | frameComplete
  deriving DecidableEq, Repr

/-- The events that `terminate` takes (60_exceptions.md R343). -/
inductive Ending where
  | streamExhausted | silenceTimeout | bufferOverflow
  deriving DecidableEq, Repr

/-- FSTATE, the decoder state (10_state.md R45). -/
inductive FrameState where
  | channelSeize | carrierSignal | sync | data
  deriving DecidableEq, Repr

/-- Payload bytes by address: addresses strictly rising, no entry equal to the byte an unlisted address reads as. -/
abbrev Memory := List Host.Cell

/-- What an unlisted payload byte reads as: its reset value 0x00 (10_state.md R57, 20_memory.md R82). -/
def Memory.blankByte : Byte := 0x00

/-- The canonical form, read from the address `lo` on. -/
def Memory.wfFrom : Nat → Memory → Bool
  | _, [] => true
  | lo, (a, v) :: rest => decide (lo ≤ a) && decide (v ≠ Memory.blankByte) && Memory.wfFrom (a + 1) rest

/-- The canonical form: strictly rising addresses, no entry equal to the blank byte. -/
def Memory.wf (m : Memory) : Bool := Memory.wfFrom 0 m

/-- Session driver state (10_state.md R32 to R36). -/
structure Session where
  res     : Result
  started : Bool
  zrun    : BitVec 10
  pend    : Bool
  lobyte  : Byte
  reslen  : BitVec 9
  deriving DecidableEq, Repr

/-- The event registers (10_state.md R37). -/
structure Events where
  evcode : Event
  evsym  : BitVec 6
  evcmd  : Word
  errc   : Bool
  deriving DecidableEq, Repr

/-- Correlator state (10_state.md R38, R39). -/
structure Correlator where
  ring : List B64
  cur  : Nat
  deriving DecidableEq, Repr

/-- Bit detector and timing recovery state (10_state.md R41, R42). `dbit` true is mark. -/
structure Timing where
  dbit  : Bool
  phase : B64
  deriving DecidableEq, Repr

/-- Frame state machine state (10_state.md R45 to R48). `cbit` true is mark. -/
structure Framer where
  fstate  : FrameState
  cnt     : BitVec 5
  cbit    : Bool
  syncreg : BitVec 16
  deriving DecidableEq, Repr

/-- Nibble decoder and byte assembler state (10_state.md R49 to R55). -/
structure Assembler where
  nibreg : BitVec 6
  nbc    : BitVec 3
  hinib  : BitVec 4
  hv     : Bool
  pay    : Memory
  bcnt   : BitVec 9
  rawlen : BitVec 18
  declen : BitVec 9
  lenv   : Bool
  lenco  : Bool
  invn   : Bool
  invcnt : BitVec 10
  deriving DecidableEq, Repr

/-- What reaches the block between two steps: a command word (46_host_commands.md R301), or a pulse of the `rst`
input, which is sampled between commands (70_reset_and_hazards.md R380). -/
inductive Input where
  | command (w : Word)
  | rst
  deriving DecidableEq, Repr

/-- The block: its elaboration parameters (never written), the state elements of 10_state.md R57 in six groups, and
three fields of the model: how many free nibbles have been drawn (log entry 2), the inputs still to be served, oldest
first (log entry 3), and the words put on the response port, oldest first (log entry 4). -/
structure State where
  cfg       : Config
  session   : Session
  events    : Events
  corr      : Correlator
  timing    : Timing
  framer    : Framer
  assembler : Assembler
  draws     : Nat
  input     : List Input
  resp      : List Word
  deriving DecidableEq, Repr

/-- The reset state of a block with the parameters `c` (10_state.md R57). -/
def State.initial (c : Config) : State :=
  { cfg := c
    session := { res := .running, started := false, zrun := 0, pend := false, lobyte := 0x00, reslen := 0 }
    events := { evcode := .none, evsym := 0, evcmd := 0, errc := false }
    corr := { ring := List.replicate c.window (fZero false), cur := 0 }
    timing := { dbit := false, phase := fZero false }
    framer := { fstate := .channelSeize, cnt := 0, cbit := false, syncreg := 0 }
    assembler :=
      { nibreg := 0, nbc := 0, hinib := 0, hv := false, pay := [], bcnt := 0, rawlen := 0, declen := 0,
        lenv := false, lenco := false, invn := false, invcnt := 0 }
    draws := 0
    input := []
    resp := [] }

/-- The block right after power-on, elaborated for Bell 202 (log entry 1). -/
def State.reset : State := State.initial Config.bell202

/-- Why a step stops with a fault. There is no reason: 60_exceptions.md R346 gives the block no trap and
"none should raise a fatal process-level fault" (R340). Every occurrence the spec names is an event that a next
state records (log entry 21). -/
inductive Fault where
  deriving DecidableEq, Repr

/-- Why a step is refused. -/
inductive Refusal where
  /-- Raised by an arm of `exec` without a meaning; no arm is. Safe: the model stops. -/
  | notModelled (mnemonic : String)
  /-- Raised by `step` where the parameters are not legal: 00_scope.md R8, "is refused: the model has no machine for
  it". Safe: the model stops. -/
  | illegalConfiguration
  deriving DecidableEq, Repr

end Sys2Proof.Machine
end

