-- ==== Sys2Proof/Machine/Operands.lean ====
section
/-! DEFINITION. What the operands of the commands denote (30_encoding.md R111) and the byte and bit orders of
20_memory.md R84, R85. -/

namespace Sys2Proof.Machine

/-- `int16`: a 16-bit field as a two's complement integer (00_scope.md R10). -/
def int16 (s : BitVec 16) : Int := s.toInt

/-- The sample of a byte pair, little-endian: `first` is bits 7:0 and `second` bits 15:8 (20_memory.md R84). -/
def pairSample (second first : Byte) : BitVec 16 :=
  (second.zeroExtend 16 <<< 8) ||| first.zeroExtend 16

/-- The line bit of a decision: mark gives 0 and space gives 1 (00_scope.md R13). -/
def lineBit (bit : Bool) : BitVec 1 := if bit then 0 else 1

/-- A line bit shifted in at the low end: the first bit received ends highest (20_memory.md R85). -/
def shiftIn {n : Nat} (r : BitVec n) (lb : BitVec 1) : BitVec n := (r <<< 1) ||| lb.zeroExtend n

/-- A byte from its two nibbles, the first one high (20_memory.md R85). -/
def nibblePair (high low : BitVec 4) : Byte := (high.zeroExtend 8 <<< 4) ||| low.zeroExtend 8

/-- Bits 31:0 of a binary64 encoding (20_memory.md R85). -/
def lowHalf (a : B64) : Word := a.extractLsb' 0 32

/-- Bits 63:32 of a binary64 encoding (20_memory.md R85). -/
def highHalf (a : B64) : Word := a.extractLsb' 32 32

/-- A natural in a 16-bit register: its low 16 bits (00_scope.md R10, log entry 9). -/
def field16 (n : Nat) : Word := (BitVec.ofNat 16 n).zeroExtend 32

/-- A natural in a 9-bit register: its low 9 bits (00_scope.md R10, log entry 9). -/
def field9 (n : Nat) : Word := (BitVec.ofNat 9 n).zeroExtend 32

/-- A natural in a 32-bit register: its low 32 bits (00_scope.md R10, log entry 9). -/
def field32 (n : Nat) : Word := BitVec.ofNat 32 n

end Sys2Proof.Machine
end

