-- ==== Sys2Proof/Machine/Ops.lean ====
section
/-! DEFINITION. The named operations the rules share: payload memory, ring and tables, the response port, events and
the end of a session (the block's only exception entry, 60_exceptions.md R346), rejection, and reset. -/

namespace Sys2Proof.Machine

/-! ### Payload memory -/

/-- The byte at address `a` (20_memory.md R82). -/
def Memory.read : Memory → Nat → Byte
  | [], _ => Memory.blankByte
  | (b, v) :: rest, a => if a = b then v else Memory.read rest a

/-- A byte at the front of a canonical list whose addresses lie above `a`; a blank byte is not listed. -/
def Memory.push (a : Nat) (v : Byte) (m : Memory) : Memory :=
  if v = Memory.blankByte then m else (a, v) :: m

/-- The memory with `v` at address `a`, in canonical form. -/
def Memory.write : Memory → Nat → Byte → Memory
  | [], a, v => Memory.push a v []
  | (b, w) :: rest, a, v =>
    if a < b then Memory.push a v ((b, w) :: rest)
    else if a = b then Memory.push a v rest
    else (b, w) :: Memory.write rest a v

/-! ### Ring and reference tables -/

/-- `RingRead(i)` (00_scope.md R12). Outside the ring, where no reachable state reads (20_memory.md R83), +0.0
(log entry 10). -/
def ringRead (k : Correlator) (i : Nat) : B64 := k.ring.getD i (fZero false)

/-- `RomRead(T, i)` (00_scope.md R12). Outside the table, where no legal configuration reads, +0.0 (log entry 10). -/
def romRead (t : List B64) (i : Nat) : B64 := t.getD i (fZero false)

/-! ### The response port -/

/-- `respond(w)` (46_host_commands.md R300). -/
def respond (w : Word) (s : State) : State := { s with resp := s.resp ++ [w] }

/-! ### Events -/

/-- EVCODE's encoding (60_exceptions.md R340). -/
def eventCode : Event → BitVec 4
  | .none => 0
  | .streamExhausted => 1
  | .silenceTimeout => 2
  | .invalidNibble => 3
  | .malformedLengthField => 4
  | .bufferOverflow => 5
  | .illegalCommand => 6
  | .frameComplete => 7

/-- `report(E, info)` on the event registers (60_exceptions.md R341). -/
def reportEvent (e : Event) (info : Word) (v : Events) : Events :=
  { evcode := e
    evsym := if e = .invalidNibble then info.extractLsb' 0 6 else v.evsym
    evcmd := if e = .illegalCommand then info else v.evcmd
    errc := if e = .illegalCommand then true else v.errc }

/-- `report(E, info)` (60_exceptions.md R341). -/
def report (e : Event) (info : Word) (s : State) : State := { s with events := reportEvent e info s.events }

/-- The event an ending reports (60_exceptions.md R343). -/
def endingEvent : Ending → Event
  | .streamExhausted => .streamExhausted
  | .silenceTimeout => .silenceTimeout
  | .bufferOverflow => .bufferOverflow

/-- RES after an ending (60_exceptions.md R343). -/
def endingResult : Ending → Result
  | .streamExhausted => .noResultExhausted
  | .silenceTimeout => .noResultSilence
  | .bufferOverflow => .overflow

/-- RESLEN after an ending (60_exceptions.md R343). -/
def endingLength (capacity : Nat) : Ending → BitVec 9
  | .streamExhausted => 0
  | .silenceTimeout => 0
  | .bufferOverflow => BitVec.ofNat 9 capacity

/-- RES and RESLEN, written together at the end of a session. -/
def setResult (r : Result) (len : BitVec 9) (s : State) : State :=
  { s with session := { s.session with res := r, reslen := len } }

/-- `terminate(E)` (60_exceptions.md R343). -/
def terminate (e : Ending) (s : State) : State :=
  report (endingEvent e) 0 (setResult (endingResult e) (endingLength s.cfg.capacity e) s)

/-- `REJECT(w)`: IllegalCommand with the word, response 0 (46_host_commands.md R309). -/
def reject (w : Word) (s : State) : State := respond 0 (report .illegalCommand w s)

/-! ### Reset -/

/-- RESET_ALL: every element of 10_state.md R57 at its reset value (70_reset_and_hazards.md R380). The parameters stay
(R381), and so do the model's own fields: free nibbles are drawn afresh (log entry 2), inputs still to come
and words already answered are outside the block (log entries 3, 4). -/
def resetAll (s : State) : State :=
  { State.initial s.cfg with draws := s.draws, input := s.input, resp := s.resp }

end Sys2Proof.Machine
end

