-- ==== Sys2Proof/Machine/ByteAssembly.lean ====
section
/-! DEFINITION. The symbol/nibble decoder and the byte assembler (44_nibble_byte_assembler.md R240 to R249). -/

namespace Sys2Proof.Machine

/-- LEN_EXPECTED (00_scope.md R8). -/
def lenExpected : Nat := 292

/-- LEN_FALLBACK (00_scope.md R8). -/
def lenFallback : Nat := 288

/-- SYMTAB (44_nibble_byte_assembler.md R242). -/
def symbolTable : List (BitVec 6 × BitVec 4) :=
  [(0x12, 0x0), (0x13, 0x1), (0x14, 0x2), (0x15, 0x3), (0x16, 0x4), (0x19, 0x5), (0x1A, 0x6), (0x23, 0x7),
   (0x24, 0x8), (0x25, 0x9), (0x26, 0xA), (0x29, 0xB), (0x2A, 0xC), (0x2B, 0xD), (0x2C, 0xE), (0x2D, 0xF)]

/-- The nibble of a symbol in SYMTAB's domain; none for an invalid symbol (44_nibble_byte_assembler.md R242). -/
def symbolNibble (sym : BitVec 6) : Option (BitVec 4) := symbolTable.lookup sym

/-- The assembler changed and nothing else. -/
def onAssembler (f : Assembler → Assembler) (s : State) : State := { s with assembler := f s.assembler }

/-- COMPLETE: the result is DEGRADED when an invalid symbol occurred (44_nibble_byte_assembler.md R249). -/
def complete (s : State) : State :=
  report .frameComplete 0
    (setResult (if s.assembler.invn then .degraded else .success) s.assembler.bcnt s)

/-- `2*((byte0<<8)|byte1) + 4`, the bytes unsigned (44_nibble_byte_assembler.md R246). -/
def rawLength (byte0 byte1 : Byte) : Nat :=
  2 * ((byte0.zeroExtend 16 <<< 8) ||| byte1.zeroExtend 16).toNat + 4

/-- The length registers LENGTH writes (44_nibble_byte_assembler.md R246). -/
def lengthFields (raw : Nat) (m : Assembler) : Assembler :=
  if raw = lenExpected then
    { m with rawlen := BitVec.ofNat 18 raw, declen := BitVec.ofNat 9 lenExpected, lenv := true }
  else
    { m with rawlen := BitVec.ofNat 18 raw, declen := BitVec.ofNat 9 lenFallback, lenco := true, lenv := true }

/-- LENGTH (44_nibble_byte_assembler.md R246). -/
def lengthStep (s : State) : State :=
  let raw := rawLength (Memory.read s.assembler.pay 0) (Memory.read s.assembler.pay 1)
  let s' := onAssembler (lengthFields raw) s
  if raw = lenExpected then s' else report .malformedLengthField (field32 raw) s'

/-- PAY[BCNT] takes the byte and BCNT counts it. -/
def appendByte (v : Byte) (m : Assembler) : Assembler :=
  { m with pay := Memory.write m.pay m.bcnt.toNat v, bcnt := m.bcnt + 1 }

/-- The last line of STORE_BYTE: COMPLETE when LENV = 1 and BCNT = DECLEN/2 (44_nibble_byte_assembler.md R245). -/
def completeIfDue (s : State) : State :=
  if s.assembler.lenv && s.assembler.bcnt.toNat == s.assembler.declen.toNat / 2 then complete s else s

/-- STORE_BYTE (44_nibble_byte_assembler.md R245). -/
def storeByte (v : Byte) (s : State) : State :=
  if s.assembler.bcnt.toNat ≥ s.cfg.capacity then terminate .bufferOverflow s
  else
    let s' := onAssembler (appendByte v) s
    completeIfDue (if s'.assembler.bcnt = 2 then lengthStep s' else s')

/-- NIBBLE_IN (44_nibble_byte_assembler.md R243). -/
def nibbleIn (v : BitVec 4) (s : State) : State :=
  if s.assembler.hv then
    storeByte (nibblePair s.assembler.hinib v) (onAssembler (fun m => { m with hv := false }) s)
  else onAssembler (fun m => { m with hinib := v, hv := true }) s

/-- An invalid symbol counted and reported, and one free nibble drawn (44_nibble_byte_assembler.md R241). -/
def noteInvalid (sym : BitVec 6) (s : State) : State :=
  report .invalidNibble (sym.zeroExtend 32)
    { onAssembler (fun m => { m with invn := true, invcnt := m.invcnt + 1 }) s with draws := s.draws + 1 }

/-- DECODE_SYMBOL. An invalid symbol takes its nibble position with the free value `draw4()`
(44_nibble_byte_assembler.md R241, log entry 2). -/
def decodeSymbol (sym : BitVec 6) (s : State) : State :=
  match symbolNibble sym with
  | some v => nibbleIn v s
  | none => nibbleIn (Config.draw4 s.draws) (noteInvalid sym s)

/-- ASSEMBLE_BIT (44_nibble_byte_assembler.md R240). -/
def assembleBit (lb : BitVec 1) (s : State) : State :=
  let reg := shiftIn s.assembler.nibreg lb
  if s.assembler.nbc.toNat + 1 = 6 then
    decodeSymbol reg (onAssembler (fun m => { m with nibreg := reg, nbc := 0 }) s)
  else onAssembler (fun m => { m with nibreg := reg, nbc := m.nbc + 1 }) s

end Sys2Proof.Machine
end

