-- ==== Sys2Proof/Machine/FrameSync.lean ====
section
/-! DEFINITION. The frame-sync state machine (43_frame_fsm.md R210 to R215). -/

namespace Sys2Proof.Machine

/-- SEIZE_LIMIT (00_scope.md R8). -/
def seizeLimit : Nat := 30

/-- CARRIER_LIMIT (00_scope.md R8). -/
def carrierLimit : Nat := 15

/-- SYNC_WORD (00_scope.md R8). -/
def syncWord : BitVec 16 := 0xAB4D

/-- SEIZE_STEP (43_frame_fsm.md R212). -/
def seizeStep (bit : Bool) (f : Framer) : Framer :=
  let cnt := if bit = f.cbit then 0 else f.cnt + 1
  if cnt.toNat > seizeLimit then { f with fstate := .sync, cnt := 0 } else { f with cnt := cnt }

/-- CARRIER_STEP (43_frame_fsm.md R214), unreachable (R216, log entry 15). -/
def carrierStep (bit : Bool) (f : Framer) : Framer :=
  let cnt := if bit then f.cnt + 1 else 0
  if cnt.toNat > carrierLimit then { f with fstate := .data, cnt := 0 } else { f with cnt := cnt }

/-- SYNC_STEP (43_frame_fsm.md R213). -/
def syncStep (bit : Bool) (f : Framer) : Framer :=
  let reg := shiftIn f.syncreg (lineBit bit)
  if reg = syncWord then { f with syncreg := reg, fstate := .data } else { f with syncreg := reg }

/-- The frame state machine changed and nothing else. -/
def onFramer (g : Framer → Framer) (s : State) : State := { s with framer := g s.framer }

/-- DATA_STEP (43_frame_fsm.md R215). -/
def dataStep (bit : Bool) (s : State) : State := assembleBit (lineBit bit) s

/-- The state handler, chosen by FSTATE at the start of the event (43_frame_fsm.md R210). -/
def frameStep (bit : Bool) (s : State) : State :=
  match s.framer.fstate with
  | .channelSeize => onFramer (seizeStep bit) s
  | .carrierSignal => onFramer (carrierStep bit) s
  | .sync => onFramer (syncStep bit) s
  | .data => dataStep bit s

/-- CBIT takes the cell's bit at the end of every cell event (43_frame_fsm.md R210). -/
def noteCell (bit : Bool) (f : Framer) : Framer := { f with cbit := bit }

/-- CELL_EVENT (43_frame_fsm.md R210). -/
def cellEvent (bit : Bool) (s : State) : State := onFramer (noteCell bit) (frameStep bit s)

end Sys2Proof.Machine
end

