-- ==== Sys2Proof/Machine/CellTiming.lean ====
section
/-! DEFINITION. Timing recovery (42_timing_recovery.md R191 to R194). -/

namespace Sys2Proof.Machine

/-- TRANSITION: a changed decision re-centres the phase at 0.5 (42_timing_recovery.md R191). -/
def transition (bit : Bool) (t : Timing) : Timing :=
  if bit ≠ t.dbit then { t with phase := fHalf } else t

/-- ADVANCE (42_timing_recovery.md R192). -/
def advance (step : B64) (bit : Bool) (t : Timing) : Timing := { dbit := bit, phase := fAdd t.phase step }

/-- The phase has passed 1.0; exactly 1.0 does not wrap (42_timing_recovery.md R193). -/
def wraps (t : Timing) : Bool := fGt t.phase fOne

/-- The phase after the subtraction of R193. -/
def wrapPhase (t : Timing) : Timing := { t with phase := fSub t.phase fOne }

/-- WRAP: past 1.0, subtract 1.0 and emit the cell event (42_timing_recovery.md R193). -/
def wrap (bit : Bool) (s : State) : State :=
  if wraps s.timing then cellEvent bit { s with timing := wrapPhase s.timing } else s

end Sys2Proof.Machine
end

