-- ==== Sys2Proof/Machine/Correlation.lean ====
section
/-! DEFINITION. The correlator and the bit detector (40_correlator.md R153 to R155, 41_bit_detector.md R180). -/

namespace Sys2Proof.Machine

/-- The four correlation sums of one sample (40_correlator.md R155). -/
structure Sums where
  markSin  : B64
  markCos  : B64
  spaceSin : B64
  spaceCos : B64
  deriving DecidableEq, Repr

/-- NORM_DIVISOR, 32768.0 (00_scope.md R8, 92_eei_decisions.md D14). -/
def normDivisor : B64 := fOfInt 32768

/-- NORMALIZE: x = fl(s / 32768.0) (40_correlator.md R153). -/
def normalize (s : BitVec 16) : B64 := fDiv (fOfInt (int16 s)) normDivisor

/-- RING_PUSH: the ring at the old cursor takes x, and the cursor advances modulo N (40_correlator.md R154). -/
def ringPush (n : Nat) (x : B64) (k : Correlator) : Correlator :=
  { ring := k.ring.set k.cur x, cur := (k.cur + 1) % n }

/-- The cursor that aligns the tables: the advanced one for AFTER, the old one for BEFORE (40_correlator.md R155). -/
def corrBase (align : CorrAlign) (old : Nat) (k : Correlator) : Nat :=
  match align with
  | .after => k.cur
  | .before => old

/-- One accumulator of CORRELATE: j ascending from +0.0, one rounding per operation (40_correlator.md R155). -/
def innerProduct (n base : Nat) (k : Correlator) (table : List B64) : B64 :=
  (List.range n).foldl (fun acc j => fAdd acc (fMul (ringRead k ((base + j) % n)) (romRead table j))) (fZero false)

/-- CORRELATE, after RING_PUSH, where `old` is the cursor before it (40_correlator.md R155). -/
def correlate (c : Config) (old : Nat) (k : Correlator) : Sums :=
  let base := corrBase c.align old k
  { markSin := innerProduct c.window base k c.rom.ms
    markCos := innerProduct c.window base k c.rom.mc
    spaceSin := innerProduct c.window base k c.rom.ss
    spaceCos := innerProduct c.window base k c.rom.sc }

/-- E_mark or E_space: the sum of the squares of a pair of sums (41_bit_detector.md R180). -/
def toneEnergy (sinSum cosSum : B64) : B64 := fAdd (fMul sinSum sinSum) (fMul cosSum cosSum)

/-- DETECT: true (mark) when the mark energy is strictly greater (41_bit_detector.md R180, R181). -/
def detect (c : Sums) : Bool := fGt (toneEnergy c.markSin c.markCos) (toneEnergy c.spaceSin c.spaceCos)

/-- The decision of the sample that left the correlator as `k`, where `old` was the cursor before. -/
def decision (c : Config) (old : Nat) (k : Correlator) : Bool := detect (correlate c old k)

end Sys2Proof.Machine
end

