-- ==== Sys2Proof/Machine/Flags.lean ====
section
/-! DEFINITION. The status flags as the host sees them: `done` and the STATUS register (10_state.md R56, R58, R61). -/

namespace Sys2Proof.Machine

/-- RES's encoding (10_state.md R32). -/
def resultCode : Result → BitVec 3
  | .running => 0
  | .success => 1
  | .degraded => 2
  | .noResultExhausted => 3
  | .noResultSilence => 4
  | .overflow => 5

/-- FSTATE's encoding (10_state.md R45). -/
def frameCode : FrameState → BitVec 2
  | .channelSeize => 0
  | .carrierSignal => 1
  | .sync => 2
  | .data => 3

/-- The session is still running. -/
def State.running (s : State) : Bool := s.session.res == .running

/-- The output `done`: RES ≠ RUNNING (10_state.md R56, 60_exceptions.md R350). -/
def State.done (s : State) : Bool := s.session.res != .running

/-- A flag at bit `i` of a word. -/
def flagAt (i : Nat) (b : Bool) : Word := if b then 1#32 <<< i else 0

/-- The STATUS register, field by field (10_state.md R61). -/
def statusWord (s : State) : Word :=
  (resultCode s.session.res).zeroExtend 32
  ||| ((frameCode s.framer.fstate).zeroExtend 32 <<< 4)
  ||| flagAt 8 s.session.started
  ||| flagAt 9 s.session.pend
  ||| flagAt 10 s.assembler.lenv
  ||| flagAt 11 s.assembler.lenco
  ||| flagAt 12 s.assembler.invn
  ||| flagAt 13 s.events.errc
  ||| flagAt 16 s.timing.dbit
  ||| flagAt 17 s.framer.cbit
  ||| flagAt 18 s.assembler.hv
  ||| flagAt 31 s.done

end Sys2Proof.Machine
end

