-- ==== Sys2Proof/Machine/Driver.lean ====
section
/-! DEFINITION. The session driver (45_session_driver.md R270 to R274). -/

namespace Sys2Proof.Machine

/-- SILENCE_LIMIT (00_scope.md R8). -/
def silenceLimit : Nat := 1000

/-- STARTED and ZRUN changed and nothing else. -/
def setGate (started : Bool) (zrun : BitVec 10) (s : State) : State :=
  { s with session := { s.session with started := started, zrun := zrun } }

/-- PEND and LOBYTE changed and nothing else. -/
def setPair (pend : Bool) (lobyte : Byte) (s : State) : State :=
  { s with session := { s.session with pend := pend, lobyte := lobyte } }

/-- SILENCE_GATE: the state it leaves, and whether the sample passes (45_session_driver.md R271). -/
def silenceGate (x : BitVec 16) (s : State) : State × Bool :=
  if s.session.started = false then
    if x = 0 then (s, false) else (setGate true 0 s, true)
  else if x = 0 then
    let s' := setGate true (s.session.zrun + 1) s
    if s'.session.zrun.toNat = silenceLimit then (terminate .silenceTimeout s', false) else (s', true)
  else (setGate true 0 s, true)

/-- The correlator after RING_PUSH of a sample. -/
def pushedCorrelator (x : BitVec 16) (s : State) : Correlator := ringPush s.cfg.window (normalize x) s.corr

/-- The decision of a sample (45_session_driver.md R272, up to DETECT). -/
def sampleDecision (x : BitVec 16) (s : State) : Bool := decision s.cfg s.corr.cur (pushedCorrelator x s)

/-- The timing registers after TRANSITION and ADVANCE with a decision (42_timing_recovery.md R191, R192). -/
def advancedTiming (bit : Bool) (s : State) : Timing := advance s.cfg.phaseStep bit (transition bit s.timing)

/-- PIPELINE: NORMALIZE, RING_PUSH, CORRELATE, DETECT, TRANSITION, ADVANCE, WRAP (45_session_driver.md R272). -/
def pipeline (x : BitVec 16) (s : State) : State :=
  let bit := sampleDecision x s
  wrap bit { s with corr := pushedCorrelator x s, timing := advancedTiming bit s }

/-- SAMPLE_STEP, called only while RES = RUNNING (45_session_driver.md R270). -/
def sampleStep (x : BitVec 16) (s : State) : State :=
  if s.running then
    let g := silenceGate x s
    if g.2 then pipeline x g.1 else g.1
  else s

/-- BYTE_IN (45_session_driver.md R273). -/
def byteIn (b : Byte) (s : State) : State :=
  if s.session.pend then sampleStep (pairSample b s.session.lobyte) (setPair false s.session.lobyte s)
  else setPair true b s

/-- END_OF_STREAM: a pending byte is dropped (45_session_driver.md R274). -/
def endOfStream (s : State) : State := terminate .streamExhausted (setPair false s.session.lobyte s)

end Sys2Proof.Machine
end

