-- ==== Sys2Proof/Machine/ReadSpace.lean ====
section
/-! DEFINITION. The read space: the register map and the payload window (10_state.md R60, 20_memory.md R80 to R82). -/

namespace Sys2Proof.Machine

/-- ID_VALUE, ASCII "FSK1" (00_scope.md R8). -/
def idValue : Word := 0x46534B31

/-- The address of a register (10_state.md R60). -/
def regAddress : RegName → BitVec 9
  | .id => 0x000
  | .status => 0x001
  | .bcnt => 0x002
  | .reslen => 0x003
  | .rawlen => 0x004
  | .declen => 0x005
  | .invcnt => 0x006
  | .cnt => 0x007
  | .syncreg => 0x008
  | .nibst => 0x009
  | .zrun => 0x00A
  | .cur => 0x00B
  | .phaseLo => 0x00C
  | .phaseHi => 0x00D
  | .lobyte => 0x00E
  | .event => 0x00F
  | .evcmd => 0x010
  | .cfgN => 0x011
  | .cfgSampleRate => 0x012
  | .cfgDownsampling => 0x013
  | .cfgFreqMark => 0x014
  | .cfgFreqSpace => 0x015
  | .cfgBaud => 0x016
  | .cfgCapacity => 0x017
  | .cfgStepLo => 0x018
  | .cfgStepHi => 0x019

/-- The registers in address order. -/
def allRegs : List RegName :=
  [.id, .status, .bcnt, .reslen, .rawlen, .declen, .invcnt, .cnt, .syncreg, .nibst, .zrun, .cur, .phaseLo, .phaseHi,
   .lobyte, .event, .evcmd, .cfgN, .cfgSampleRate, .cfgDownsampling, .cfgFreqMark, .cfgFreqSpace, .cfgBaud,
   .cfgCapacity, .cfgStepLo, .cfgStepHi]

/-- The content of a register (10_state.md R60). Bits not listed are 0. -/
def regValue (s : State) : RegName → Word
  | .id => idValue
  | .status => statusWord s
  | .bcnt => s.assembler.bcnt.zeroExtend 32
  | .reslen => s.session.reslen.zeroExtend 32
  | .rawlen => s.assembler.rawlen.zeroExtend 32
  | .declen => s.assembler.declen.zeroExtend 32
  | .invcnt => s.assembler.invcnt.zeroExtend 32
  | .cnt => s.framer.cnt.zeroExtend 32
  | .syncreg => s.framer.syncreg.zeroExtend 32
  | .nibst =>
    s.assembler.nibreg.zeroExtend 32 ||| (s.assembler.nbc.zeroExtend 32 <<< 8)
      ||| (s.assembler.hinib.zeroExtend 32 <<< 16)
  | .zrun => s.session.zrun.zeroExtend 32
  | .cur => field16 s.corr.cur
  | .phaseLo => lowHalf s.timing.phase
  | .phaseHi => highHalf s.timing.phase
  | .lobyte => s.session.lobyte.zeroExtend 32
  | .event => (eventCode s.events.evcode).zeroExtend 32 ||| (s.events.evsym.zeroExtend 32 <<< 8)
  | .evcmd => s.events.evcmd
  | .cfgN => field16 s.cfg.window
  | .cfgSampleRate => field32 s.cfg.sampleRate
  | .cfgDownsampling => field32 s.cfg.downsampling
  | .cfgFreqMark => field32 s.cfg.freqMark
  | .cfgFreqSpace => field32 s.cfg.freqSpace
  | .cfgBaud => field32 s.cfg.baud
  | .cfgCapacity => field9 s.cfg.capacity
  | .cfgStepLo => lowHalf s.cfg.phaseStep
  | .cfgStepHi => highHalf s.cfg.phaseStep

/-- REG(a): an address not listed reads 0 (10_state.md R60). -/
def regRead (a : BitVec 9) (s : State) : Word :=
  match allRegs.find? (fun r => regAddress r == a) with
  | some r => regValue s r
  | none => 0

/-- PAYWIN(a): PAY[a − 0x100], or 0 at or beyond CAPACITY (20_memory.md R82). -/
def payWindow (a : BitVec 9) (s : State) : Word :=
  let i := a.toNat - 0x100
  if i < s.cfg.capacity then (Memory.read s.assembler.pay i).zeroExtend 32 else 0

/-- The word at an address of the read space (20_memory.md R81). -/
def readSpace (a : BitVec 9) (s : State) : Word :=
  if a.toNat ≤ 0x0FF then regRead a s else payWindow a s

end Sys2Proof.Machine
end

