-- ==== Sys2Proof/Machine/Commands.lean ====
section
/-! DEFINITION. The meanings of the six commands (46_host_commands.md R302 to R310). -/

namespace Sys2Proof.Machine

/-- NOP (46_host_commands.md R303). -/
def execNop (s : State) : Host.Outcome State Fault Refusal := .next (respond 0 s)

/-- SAMPLE: ignored in a terminal session, rejected while a byte is pending (46_host_commands.md R302, R310). The
rejected word is the command's own (log entry 13). -/
def execSample (x : BitVec 16) (s : State) : Host.Outcome State Fault Refusal :=
  if s.done then .next (respond 0 s)
  else if s.session.pend then .next (reject (encode (.sample x)) s)
  else .next (respond 0 (sampleStep x s))

/-- BYTE: ignored in a terminal session (46_host_commands.md R304, R310). -/
def execByte (b : Byte) (s : State) : Host.Outcome State Fault Refusal :=
  if s.done then .next (respond 0 s) else .next (respond 0 (byteIn b s))

/-- EOS: ignored in a terminal session (46_host_commands.md R306, R310). -/
def execEos (s : State) : Host.Outcome State Fault Refusal :=
  if s.done then .next (respond 0 s) else .next (respond 0 (endOfStream s))

/-- RESET, in every state (46_host_commands.md R308). -/
def execReset (s : State) : Host.Outcome State Fault Refusal := .next (respond 0 (resetAll s))

/-- READ: the response is the word read, and nothing else changes (46_host_commands.md R307). -/
def execRead (a : BitVec 9) (s : State) : Host.Outcome State Fault Refusal := .next (respond (readSpace a s) s)

end Sys2Proof.Machine
end

