-- ==== Sys2Proof/Machine/Dispatch.lean ====
section
/-! DEFINITION. exec: one arm per command (46_host_commands.md R301). -/

namespace Sys2Proof.Machine

def exec (i : Instr) (s : State) : Host.Outcome State Fault Refusal :=
  match i with
  | .nop => Sys2Proof.Machine.execNop s
  | .sample x => Sys2Proof.Machine.execSample x s
  | .byte b => Sys2Proof.Machine.execByte b s
  | .eos => Sys2Proof.Machine.execEos s
  | .reset => Sys2Proof.Machine.execReset s
  | .read a => Sys2Proof.Machine.execRead a s

end Sys2Proof.Machine
end

