-- ==== Sys2Proof/Machine/Port.lean ====
section
/-! DEFINITION. Serving the ports: one input, and a command word that need not be well-formed
(46_host_commands.md R301, 70_reset_and_hazards.md R380). -/

namespace Sys2Proof.Machine

/-- A command word: decoded and run, or rejected when it is not well-formed (46_host_commands.md R301). -/
def serveCommand (w : Word) (s : State) : Host.Outcome State Fault Refusal :=
  match decode w with
  | .ok i => exec i s
  | .error _ => .next (reject w s)

/-- `rst`: reset without a response word (70_reset_and_hazards.md R380). -/
def serveRst (s : State) : Host.Outcome State Fault Refusal := .next (resetAll s)

/-- The oldest input, taken off the list and served. With none the block is idle and keeps its state
(60_exceptions.md R356). -/
def serveInput (s : State) : Host.Outcome State Fault Refusal :=
  match s.input with
  | [] => .next s
  | .command w :: rest => serveCommand w { s with input := rest }
  | .rst :: rest => serveRst { s with input := rest }

/-- The inputs with a command word put first: bit 0 of `w` is the word's least significant bit, and bits at or above
`nbits` are 0. -/
def commandFirst (nbits w : Nat) (inputs : List Input) : List Input :=
  .command (BitVec.ofNat 32 (w % 2 ^ nbits)) :: inputs

end Sys2Proof.Machine
end

