-- ==== Sys2Proof/Machine/Step.lean ====
section
/-! DEFINITION. One step of the block: one atomic command (20_memory.md R86), on a legal configuration. -/

namespace Sys2Proof.Machine

/-- One step. Parameters outside 00_scope.md R8 are refused (log entry 8). -/
def step (s : State) : Host.Outcome State Fault Refusal :=
  if s.cfg.legal then serveInput s else .refused .illegalConfiguration

/-- `s` with the command word `w` as the input that the next step serves (log entry 3). -/
def State.withFetchWord (s : State) (nbits w : Nat) : State :=
  { s with input := commandFirst nbits w s.input }

end Sys2Proof.Machine
end

