-- ==== Sys2Proof/Machine/RefTables.lean ====
section
/-! DEFINITION. The default contents of REF_ROM for any profile: the correctly rounded sines and cosines of
40_correlator.md R152, computed in fixed point (log entry 7), and the catalogue of 00_scope.md R9. -/

namespace Sys2Proof.Machine

/-- atan(1/k) · 2^p by its series; `pw` is 2^p / k^(2n+1), `odd` is 2n+1, `k2` is k². -/
def atanSeries (k2 : Nat) : Nat → Nat → Nat → Bool → Int
  | 0, _, _, _ => 0
  | fuel + 1, pw, odd, minus =>
    if pw = 0 then 0
    else (if minus then -((pw / odd : Nat) : Int) else ((pw / odd : Nat) : Int))
      + atanSeries k2 fuel (pw / k2) (odd + 2) (!minus)

/-- π · 2^p, by 16·atan(1/5) − 4·atan(1/239). -/
def piFixed (p : Nat) : Nat :=
  (16 * atanSeries 25 p ((1 <<< p) / 5) 1 false - 4 * atanSeries 57121 p ((1 <<< p) / 239) 1 false).toNat

/-- Σ ± term, where each term is the last times x² / (n·(n+1)): the series of sine and cosine in units of 2^-p. -/
def trigSeries (p x : Nat) : Nat → Nat → Nat → Bool → Int
  | 0, _, _, _ => 0
  | fuel + 1, term, n, minus =>
    if term = 0 then 0
    else (if minus then -(term : Int) else (term : Int))
      + trigSeries p x fuel (((((term * x) >>> p) * x) >>> p) / (n * (n + 1))) (n + 2) (!minus)

/-- sin(x / 2^p) · 2^p. -/
def sinFixed (p x : Nat) : Nat := (trigSeries p x p x 2 false).toNat

/-- cos(x / 2^p) · 2^p. -/
def cosFixed (p x : Nat) : Nat := (trigSeries p x p (1 <<< p) 1 false).toNat

/-- A fixed-point magnitude with a sign, rounded to binary64; an exact zero is +0.0 (40_correlator.md R152). -/
def fixedToB64 (p : Nat) (neg : Bool) (m : Nat) : B64 :=
  fPack (neg && m != 0) (roundMag (m * unitsPerOne) (1 <<< p))

/-- Enough bits that the error of the series lies far below half a unit in the last place. -/
def tablePrecision (fs : Nat) : Nat := 256 + 2 * fs.log2

/-- (sin, cos) of 2π·f·i/fs. The angle is reduced exactly to one of eight octants and a remainder in [0, π/4],
counted from the octant's multiple of π/2. -/
def sinCosEntry (f fs i : Nat) : B64 × B64 :=
  let p := tablePrecision fs
  let t := 8 * (f * i % fs)
  let octant := t / fs
  let rest := if octant % 2 = 0 then t % fs else fs - t % fs
  let x := piFixed p * rest / (4 * fs)
  let s := sinFixed p x
  let c := cosFixed p x
  let swapped := octant = 1 ∨ octant = 2 ∨ octant = 5 ∨ octant = 6
  let sinNeg := decide (4 ≤ octant)
  let cosNeg := decide (2 ≤ octant ∧ octant ≤ 5)
  (fixedToB64 p sinNeg (if swapped then c else s), fixedToB64 p cosNeg (if swapped then s else c))

/-- REF_ROM's default contents (40_correlator.md R152). -/
def refRomOf (freqMark freqSpace fs n : Nat) : RefRom :=
  let mark := (List.range n).map (sinCosEntry freqMark fs)
  let space := (List.range n).map (sinCosEntry freqSpace fs)
  { ms := mark.map Prod.fst, mc := mark.map Prod.snd, ss := space.map Prod.fst, sc := space.map Prod.snd }

/-- A profile at a sample rate, with the other parameters at their defaults (00_scope.md R8). -/
def configOf (freqMark freqSpace baud sampleRate : Nat) : Config :=
  { freqMark, freqSpace, baud, sampleRate, downsampling := 1, capacity := 256, align := .after,
    rom := refRomOf freqMark freqSpace sampleRate (sampleRate / freqMark) }

/-- The catalogue's long-haul 600 bps (00_scope.md R9). PRESUMED (93_implementation_defined.md G1). -/
def profileV23Mode1 : Config := configOf 1300 1700 600 8000

/-- The catalogue's 1200 bps V.23 (00_scope.md R9). PRESUMED (93_implementation_defined.md G1). -/
def profileV23Mode2 : Config := configOf 1300 2100 1200 8000

/-- The catalogue's 75 bps backward channel (00_scope.md R9). PRESUMED (93_implementation_defined.md G1). -/
def profileV23Backward : Config := configOf 390 450 75 8000

end Sys2Proof.Machine
end

