-- ==== Sys2Proof/Machine/AsmText.lean ====
section
/-! DEFINITION. The assembler: what a line of text says, and the commands it stands for (30_encoding.md R116, R117).
A text convenience; the block sees only the words. A line is a list of characters (log entry 14). -/

namespace Sys2Proof.Machine

/-! ### Lines to commands -/

/-- The 16-bit pattern of a sample operand. -/
def samplePattern (l : Literal) : BitVec 16 := BitVec.ofInt 16 l.value

/-- `PCM s`: the sample's low byte, then its high byte (30_encoding.md R117). -/
def pcmPair (x : BitVec 16) : List Instr := [.byte (x.extractLsb' 0 8), .byte (x.extractLsb' 8 8)]

/-- The address of READ's operand (30_encoding.md R116). -/
def readAddress : ReadOperand → BitVec 9
  | .addr a => BitVec.ofInt 9 a.value
  | .reg r => regAddress r
  | .pay i => 0x100 + BitVec.ofInt 9 i.value

/-- The commands of a line whose operands are in range (30_encoding.md R116, R117). -/
def expandLine : Line → List Instr
  | .nop => [.nop]
  | .sample s => [.sample (samplePattern s)]
  | .byte b => [.byte (BitVec.ofInt 8 b.value)]
  | .eos => [.eos]
  | .reset => [.reset]
  | .read a => [.read (readAddress a)]
  | .pcm s => pcmPair (samplePattern s)
  | .zeros n => List.replicate n.value.toNat (.sample 0)
  | .pcmZeros n => (List.replicate n.value.toNat [Instr.byte 0, .byte 0]).flatten
  | .samples ss => ss.map (fun s => .sample (samplePattern s))
  | .rd r => [.read (regAddress r)]

/-- The commands of a line; none where an operand is out of range: "It never truncates one" (30_encoding.md R116). -/
def assembleLine (l : Line) : Option (List Instr) := if l.wellFormed then some (expandLine l) else none

/-! ### Text to lines -/

/-- A space or a tab. -/
def isBlank (c : Char) : Bool := c == ' ' || c == '\t'

/-- The text without blanks at its ends. -/
def trimBlanks (t : List Char) : List Char := ((t.dropWhile isBlank).reverse.dropWhile isBlank).reverse

/-- The text before the first `;` (30_encoding.md R116, "`;` starts a comment"). -/
def dropComment (t : List Char) : List Char := t.takeWhile (· ≠ ';')

/-- The upper-case letter: mnemonics are case-insensitive (30_encoding.md R116). -/
def upperCase (c : Char) : Char := if 97 ≤ c.toNat ∧ c.toNat ≤ 122 then Char.ofNat (c.toNat - 32) else c

/-- The pieces between commas. -/
def splitCommas : List Char → List (List Char)
  | [] => [[]]
  | c :: rest =>
    if c = ',' then [] :: splitCommas rest
    else match splitCommas rest with
      | [] => [[c]]
      | piece :: more => (c :: piece) :: more

/-- The value of a digit in a base up to 16. -/
def digitValue (base : Nat) (c : Char) : Option Nat :=
  let n := c.toNat
  let v := if 48 ≤ n ∧ n ≤ 57 then some (n - 48)
    else if 65 ≤ n ∧ n ≤ 70 then some (n - 55)
    else if 97 ≤ n ∧ n ≤ 102 then some (n - 87)
    else none
  v.filter (· < base)

/-- A non-empty run of digits. -/
def parseDigits (base : Nat) (t : List Char) : Option Nat :=
  if t = [] then none
  else t.foldl (fun acc c => acc.bind (fun a => (digitValue base c).map (fun d => a * base + d))) (some 0)

/-- A number: decimal, or hexadecimal with a `0x` prefix (30_encoding.md R116). -/
def parseLiteral : List Char → Option Literal
  | '0' :: 'x' :: digits => (parseDigits 16 digits).map .hex
  | '-' :: digits => (parseDigits 10 digits).map (fun n => .dec (-(n : Int)))
  | digits => (parseDigits 10 digits).map (fun n => .dec n)

/-- The register names of 10_state.md R60 as text. -/
def regNames : List (List Char × RegName) :=
  [(['I','D'], .id), (['S','T','A','T','U','S'], .status), (['B','C','N','T'], .bcnt),
   (['R','E','S','L','E','N'], .reslen), (['R','A','W','L','E','N'], .rawlen), (['D','E','C','L','E','N'], .declen),
   (['I','N','V','C','N','T'], .invcnt), (['C','N','T'], .cnt), (['S','Y','N','C','R','E','G'], .syncreg),
   (['N','I','B','S','T'], .nibst), (['Z','R','U','N'], .zrun), (['C','U','R'], .cur),
   (['P','H','A','S','E','_','L','O'], .phaseLo), (['P','H','A','S','E','_','H','I'], .phaseHi),
   (['L','O','B','Y','T','E'], .lobyte), (['E','V','E','N','T'], .event), (['E','V','C','M','D'], .evcmd)]
  ++ [(['C','F','G','_','N'], .cfgN),
   (['C','F','G','_','S','A','M','P','L','E','_','R','A','T','E'], .cfgSampleRate),
   (['C','F','G','_','D','O','W','N','S','A','M','P','L','I','N','G'], .cfgDownsampling),
   (['C','F','G','_','F','R','E','Q','_','M','A','R','K'], .cfgFreqMark),
   (['C','F','G','_','F','R','E','Q','_','S','P','A','C','E'], .cfgFreqSpace),
   (['C','F','G','_','B','A','U','D'], .cfgBaud), (['C','F','G','_','C','A','P','A','C','I','T','Y'], .cfgCapacity),
   (['C','F','G','_','S','T','E','P','_','L','O'], .cfgStepLo),
   (['C','F','G','_','S','T','E','P','_','H','I'], .cfgStepHi)]

/-- A register by its name. -/
def parseReg (t : List Char) : Option RegName := regNames.lookup t

/-- The literal `i` of a text that is `i]`. -/
def parseIndex (t : List Char) : Option Literal :=
  match t.reverse with
  | ']' :: digits => parseLiteral digits.reverse
  | _ => none

/-- READ's operand: an address, a register name, or `PAY[i]` (30_encoding.md R116). -/
def parseReadOperand (t : List Char) : Option ReadOperand :=
  match t with
  | 'P' :: 'A' :: 'Y' :: '[' :: rest => (parseIndex rest).map .pay
  | _ =>
    match parseReg t with
    | some r => some (.reg r)
    | none => (parseLiteral t).map .addr

/-- Exactly no operand. -/
def noOperand (l : Line) : List (List Char) → Option Line
  | [] => some l
  | _ => none

/-- Exactly one operand. -/
def oneOperand {α : Type} (parse : List Char → Option α) (f : α → Line) : List (List Char) → Option Line
  | [t] => (parse t).map f
  | _ => none

/-- A mnemonic or a pseudo-instruction's name with its operands (30_encoding.md R116, R117). -/
def parseOperation (name : List Char) (ops : List (List Char)) : Option Line :=
  if name = ['N','O','P'] then noOperand .nop ops
  else if name = ['S','A','M','P','L','E'] then oneOperand parseLiteral .sample ops
  else if name = ['B','Y','T','E'] then oneOperand parseLiteral .byte ops
  else if name = ['E','O','S'] then noOperand .eos ops
  else if name = ['R','E','S','E','T'] then noOperand .reset ops
  else if name = ['R','E','A','D'] then oneOperand parseReadOperand .read ops
  else if name = ['P','C','M'] then oneOperand parseLiteral .pcm ops
  else if name = ['Z','E','R','O','S'] then oneOperand parseLiteral .zeros ops
  else if name = ['P','C','M','Z','E','R','O','S'] then oneOperand parseLiteral .pcmZeros ops
  else if name = ['S','A','M','P','L','E','S'] then (ops.mapM parseLiteral).map .samples
  else if name = ['R','D'] then oneOperand parseReg .rd ops
  else none

/-- A line of text: no line of a program, where only blanks stand before the comment (DEDUCED, log entry 14). -/
def parseLine (text : List Char) : Option (List Line) :=
  let t := trimBlanks (dropComment text)
  let name := (t.takeWhile (fun c => !isBlank c)).map upperCase
  let rest := trimBlanks (t.dropWhile (fun c => !isBlank c))
  if t = [] then some []
  else (parseOperation name (if rest = [] then [] else (splitCommas rest).map trimBlanks)).map (fun l => [l])

/-- The command words of a program text, one line a list entry; none where a line is refused. -/
def assembleText (lines : List (List Char)) : Option (List Word) :=
  (lines.mapM (fun t => (parseLine t).bind (fun ls => (ls.mapM assembleLine).map List.flatten))).map
    (fun blocks => blocks.flatten.map encode)

end Sys2Proof.Machine
end

