-- ==== Sys2Proof/Safety.lean ====
section
/-! DEFINITION. The terms that claims use: the states a run can reach, the invariants that rule out all others, and
the vocabulary of the statements (cell streams, transmitted frames, nearest binary64 numbers). -/

namespace Sys2Proof.Machine

/-! ### Runs -/

/-- The states a block with parameters `c` can reach, whatever the host sends between steps
(70_reset_and_hazards.md R383). -/
inductive Reachable (c : Config) : State → Prop where
  | powerOn : Reachable c (State.initial c)
  | send (s : State) (x : Input) : Reachable c s → Reachable c { s with input := s.input ++ [x] }
  | step (s t : State) : Reachable c s → Machine.step s = .next t → Reachable c t

/-- k steps, stopping at a step that is not a next state. -/
def runSteps : Nat → State → Host.Outcome State Fault Refusal
  | 0, s => .next s
  | k + 1, s =>
    match step s with
    | .next t => runSteps k t
    | o => o

/-- The next input is a reset: the RESET command or a pulse of `rst` (70_reset_and_hazards.md R380). -/
def State.resetIsNext (s : State) : Prop :=
  s.input.head? = some .rst ∨ s.input.head? = some (.command 0x40000000)

/-! ### Invariants -/

/-- The arrays have the sizes of 10_state.md R38, R39, R51, R52: "Every index into these arrays is in range by
construction" (20_memory.md R83). Payload bytes not yet assembled read 0x00 (R82). -/
structure State.ArraysSized (s : State) : Prop where
  legal : s.cfg.legal = true
  ringLength : s.corr.ring.length = s.cfg.window
  cursorInRing : s.corr.cur < s.cfg.window
  payCanonical : s.assembler.pay.wf = true
  countInCapacity : s.assembler.bcnt.toNat ≤ s.cfg.capacity
  payBlankAbove : ∀ a, s.assembler.bcnt.toNat ≤ a → Memory.read s.assembler.pay a = 0x00

/-- The frame state machine's registers: CarrierSignal is unreachable (43_frame_fsm.md R216), CNT never exceeds 30
(10_state.md R46) and counts in ChannelSeize only, SYNCREG is written in Sync only and keeps the sync word in Data
(R48), and the assembler is untouched before Data (43_frame_fsm.md R219). -/
structure State.FrameSane (s : State) : Prop where
  noCarrier : s.framer.fstate ≠ .carrierSignal
  countSmall : s.framer.cnt.toNat ≤ 30
  countOnlySeizing : s.framer.fstate ≠ .channelSeize → s.framer.cnt = 0
  syncRegSeizing : s.framer.fstate = .channelSeize → s.framer.syncreg = 0
  syncRegSearching : s.framer.fstate = .sync → s.framer.syncreg ≠ 0xAB4D
  syncRegData : s.framer.fstate = .data → s.framer.syncreg = 0xAB4D
  assemblerIdle : s.framer.fstate ≠ .data → s.assembler = (State.initial s.cfg).assembler

/-- The assembler's registers: the symbol counter (10_state.md R49), the length registers once and only once two
bytes are in (R53, R54, 44_nibble_byte_assembler.md R246), and the invalid-symbol count (R55). -/
structure State.AssemblerSane (s : State) : Prop where
  symbolCount : s.assembler.nbc.toNat ≤ 5
  lengthKnown : s.assembler.lenv = decide (2 ≤ s.assembler.bcnt.toNat)
  lengthUnset : s.assembler.lenv = false →
    s.assembler.rawlen = 0 ∧ s.assembler.declen = 0 ∧ s.assembler.lenco = false
  rawLength : s.assembler.lenv = true →
    s.assembler.rawlen.toNat =
      2 * ((Memory.read s.assembler.pay 0).toNat * 256 + (Memory.read s.assembler.pay 1).toNat) + 4
  declaredLength : s.assembler.lenv = true →
    s.assembler.declen = if s.assembler.rawlen = 292 then 292 else 288
  coercionFlag : s.assembler.lenv = true → s.assembler.lenco = decide (s.assembler.rawlen ≠ 292)
  invalidFlag : s.assembler.invn = decide (s.assembler.invcnt ≠ 0)
  invalidCount : s.session.res = .running →
    s.assembler.invcnt.toNat ≤ 2 * s.assembler.bcnt.toNat + (if s.assembler.hv then 1 else 0)
  invalidCountEnd : s.assembler.invcnt.toNat ≤ 2 * (s.cfg.capacity + 1)

/-- The session's registers: RESLEN by RES (10_state.md R36, 44_nibble_byte_assembler.md R248), PEND only while
running (46_host_commands.md R302 case d), the zero run (10_state.md R34), and a frame that has not ended is not yet
complete (R249). -/
structure State.OutcomeSane (s : State) : Prop where
  noLength : s.session.res = .running ∨ s.session.res = .noResultExhausted ∨ s.session.res = .noResultSilence →
    s.session.reslen = 0
  frameLength : s.session.res = .success ∨ s.session.res = .degraded →
    s.assembler.lenv = true ∧ s.session.reslen = s.assembler.bcnt
      ∧ s.session.reslen.toNat = s.assembler.declen.toNat / 2
  overflowLength : s.session.res = .overflow →
    s.session.reslen.toNat = s.cfg.capacity ∧ s.assembler.bcnt.toNat = s.cfg.capacity
  cleanSuccess : s.session.res = .success → s.assembler.invn = false
  dirtyDegraded : s.session.res = .degraded → s.assembler.invn = true
  pendOnlyRunning : s.session.pend = true → s.session.res = .running
  zeroRunBound : s.session.zrun.toNat ≤ 1000
  silenceAtLimit : s.session.res = .noResultSilence ↔ s.session.zrun.toNat = 1000
  zeroRunStarted : s.session.started = false → s.session.zrun = 0
  notYetComplete : s.session.res = .running → s.assembler.lenv = true →
    s.assembler.bcnt.toNat < s.assembler.declen.toNat / 2

/-- PHASE is in [+0.0, 1.0] (10_state.md R42): encodings of numbers that are not negative are in order. -/
def State.PhaseInRange (s : State) : Prop := s.timing.phase ≤ fOne

/-! ### Cell streams -/

/-- Cell events one after another; true is mark. -/
def runCells (bits : List Bool) (s : State) : State := bits.foldl (fun t b => cellEvent b t) s

/-- n cells that alternate, the first one `b`. -/
def alternatingCells : Nat → Bool → List Bool
  | 0, _ => []
  | n + 1, b => b :: alternatingCells n (!b)

/-- The cells of the low n bits of a value, first bit first; a line bit 1 is sent as space (00_scope.md R13). -/
def valueCells (n v : Nat) : List Bool := (List.range n).map (fun i => !(v.testBit (n - 1 - i)))

/-- The symbol a transmitter sends for a nibble (44_nibble_byte_assembler.md R242, read backwards). -/
def nibbleSymbol (v : Nat) : Nat :=
  [0x12, 0x13, 0x14, 0x15, 0x16, 0x19, 0x1A, 0x23, 0x24, 0x25, 0x26, 0x29, 0x2A, 0x2B, 0x2C, 0x2D].getD v 0

/-- The twelve cells of a byte: its high nibble's symbol, then its low nibble's (44_nibble_byte_assembler.md R244). -/
def byteCells (b : Byte) : List Bool :=
  valueCells 6 (nibbleSymbol (b.toNat / 16)) ++ valueCells 6 (nibbleSymbol (b.toNat % 16))

/-- The cells of a frame's bytes. -/
def frameCells (bytes : List Byte) : List Bool := bytes.flatMap byteCells

/-! ### Command streams -/

/-- n copies of `SAMPLE 0` (30_encoding.md R117, `ZEROS n`). -/
def zeroSamples (n : Nat) : List Input := List.replicate n (.command 0x10000000)

/-! ### The read space, spelled as concatenations -/

/-- RES's code (10_state.md R32). -/
def resCode : Result → BitVec 3
  | .running => 0 | .success => 1 | .degraded => 2 | .noResultExhausted => 3 | .noResultSilence => 4 | .overflow => 5

/-- FSTATE's code (10_state.md R45). -/
def fstateCode : FrameState → BitVec 2
  | .channelSeize => 0 | .carrierSignal => 1 | .sync => 2 | .data => 3

/-- EVCODE's code (60_exceptions.md R340). -/
def evcodeCode : Event → BitVec 4
  | .none => 0 | .streamExhausted => 1 | .silenceTimeout => 2 | .invalidNibble => 3 | .malformedLengthField => 4
  | .bufferOverflow => 5 | .illegalCommand => 6 | .frameComplete => 7

/-- One bit of a flag. -/
def flagBit (b : Bool) : BitVec 1 := if b then 1 else 0

/-- The registers of 10_state.md R60 by address, from bit 31 down to bit 0. -/
def registerContents (s : State) : List (Nat × Word) :=
  [(0x000, 0x46534B31),
   (0x001, flagBit (decide (s.session.res ≠ .running)) ++ 0#12 ++ flagBit s.assembler.hv ++ flagBit s.framer.cbit
      ++ flagBit s.timing.dbit ++ 0#2 ++ flagBit s.events.errc ++ flagBit s.assembler.invn
      ++ flagBit s.assembler.lenco ++ flagBit s.assembler.lenv ++ flagBit s.session.pend ++ flagBit s.session.started
      ++ 0#2 ++ fstateCode s.framer.fstate ++ 0#1 ++ resCode s.session.res),
   (0x002, 0#23 ++ s.assembler.bcnt), (0x003, 0#23 ++ s.session.reslen), (0x004, 0#14 ++ s.assembler.rawlen),
   (0x005, 0#23 ++ s.assembler.declen), (0x006, 0#22 ++ s.assembler.invcnt), (0x007, 0#27 ++ s.framer.cnt),
   (0x008, 0#16 ++ s.framer.syncreg),
   (0x009, 0#12 ++ s.assembler.hinib ++ 0#5 ++ s.assembler.nbc ++ 0#2 ++ s.assembler.nibreg),
   (0x00A, 0#22 ++ s.session.zrun), (0x00B, 0#16 ++ BitVec.ofNat 16 s.corr.cur),
   (0x00C, s.timing.phase.extractLsb' 0 32), (0x00D, s.timing.phase.extractLsb' 32 32),
   (0x00E, 0#24 ++ s.session.lobyte),
   (0x00F, 0#18 ++ s.events.evsym ++ 0#4 ++ evcodeCode s.events.evcode), (0x010, s.events.evcmd)]
  ++ [(0x011, 0#16 ++ BitVec.ofNat 16 s.cfg.window), (0x012, BitVec.ofNat 32 s.cfg.sampleRate),
   (0x013, BitVec.ofNat 32 s.cfg.downsampling), (0x014, BitVec.ofNat 32 s.cfg.freqMark),
   (0x015, BitVec.ofNat 32 s.cfg.freqSpace), (0x016, BitVec.ofNat 32 s.cfg.baud),
   (0x017, 0#23 ++ BitVec.ofNat 9 s.cfg.capacity), (0x018, s.cfg.phaseStep.extractLsb' 0 32),
   (0x019, s.cfg.phaseStep.extractLsb' 32 32)]

/-! ### Samples -/

/-- The gate lets the sample pass (45_session_driver.md R271): it is not a leading zero and does not complete a run of
1000 zeros. -/
def gatePasses (x : BitVec 16) (s : State) : Prop :=
  x ≠ 0 ∨ (s.session.started = true ∧ s.session.zrun.toNat ≠ 999)

/-- ZRUN after the gate has passed a sample (45_session_driver.md R271). -/
def zrunAfter (x : BitVec 16) (s : State) : BitVec 10 := if x = 0 then s.session.zrun + 1 else 0

/-- The decision of the sample (40_correlator.md R153 to R155, 41_bit_detector.md R180). -/
def decisionOf (x : BitVec 16) (s : State) : Bool :=
  detect (correlate s.cfg s.corr.cur (ringPush s.cfg.window (normalize x) s.corr))

/-- PHASE before the wrap test (42_timing_recovery.md R191, R192). -/
def phaseBeforeWrap (x : BitVec 16) (s : State) : B64 :=
  fAdd (if decisionOf x s = s.timing.dbit then s.timing.phase else 0x3FE0000000000000) s.cfg.phaseStep

/-- The state of a sample that passes the gate, with everything done but the wrap and its cell event. -/
def beforeWrap (x : BitVec 16) (s : State) : State :=
  { s with
    session := { s.session with started := true, zrun := zrunAfter x s }
    corr := ringPush s.cfg.window (normalize x) s.corr
    timing := { dbit := decisionOf x s, phase := phaseBeforeWrap x s } }

/-! ### Numbers -/

/-- `r` is finite and is the binary64 number nearest to num / den units of 2^-1074, ties to even
(00_scope.md R11). -/
def IsNearestEven (num : Int) (den : Nat) (r : B64) : Prop :=
  fIsFinite r = true ∧ ∀ c : B64, fIsFinite c = true →
    |fValue r * den - num| ≤ |fValue c * den - num| ∧
    (|fValue r * den - num| = |fValue c * den - num| → fValue c ≠ fValue r → r.getLsbD 0 = false)

/-- `r` is finite and no finite binary64 number is nearer to the real number `x` (40_correlator.md R152, RN). -/
def IsNearestReal (x : ℝ) (r : B64) : Prop :=
  fIsFinite r = true ∧ ∀ c : B64, fIsFinite c = true →
    |(fValue r : ℝ) - x * unitsPerOne| ≤ |(fValue c : ℝ) - x * unitsPerOne|

end Sys2Proof.Machine
end

