-- ==== Sys2Proof/Certificates/Slice0/Obligations.lean ====
section
/-! DEFINITION. The statements for the provers. Each docstring names the rule it formalises. Everywhere, `resp` and
`input` are the model's form of the two ports (log entries 3 and 4). -/

open Sys2Proof Sys2Proof.Machine

/-! ### Command words -/

/-- Decoding the word of a command gives the command back, with every operand at every value (30_encoding.md R111,
R112). -/
def Obligations.DecodeOfEncodeIsIdentity : Prop := ∀ i : Instr, decode (encode i) = .ok i

/-- A word decodes to a command only if it is that command's word (30_encoding.md R113, R115). -/
def Obligations.EncodeOfDecodeIsIdentity : Prop := ∀ (w : Word) (i : Instr), decode w = .ok i → encode i = w

/-- The decoder takes a word exactly when the five conditions of 30_encoding.md R113 hold. -/
def Obligations.DecodeAcceptsExactlyWellFormedWords : Prop :=
  ∀ w : Word, (∃ i, decode w = .ok i) ↔
    ((w.extractLsb' 28 4).toNat ≤ 5
      ∧ w.extractLsb' 16 12 = 0
      ∧ ((w.extractLsb' 28 4).toNat ∈ [0, 3, 4] → w.extractLsb' 0 16 = 0)
      ∧ ((w.extractLsb' 28 4).toNat = 2 → w.extractLsb' 8 8 = 0)
      ∧ ((w.extractLsb' 28 4).toNat = 5 → w.extractLsb' 9 7 = 0))

/-- A word that decodes matches exactly the row of 30_encoding.md R115 of its command, and any other word matches no
row (R113). -/
def Obligations.WellFormedWordMatchesOneEncodingRow : Prop :=
  ∀ w : Word,
    (∀ i, decode w = .ok i → (encodingRows.filter (fun r => r.matchesWord w)).map (·.mnemonic) = [mnemonic i])
    ∧ (∀ e, decode w = .error e → encodingRows.filter (fun r => r.matchesWord w) = [])

/-- The thirteen examples of 30_encoding.md R118: the word each text assembles to, letter by letter, the command it is
the word of, and the three words that are illegal. -/
def Obligations.SpecEncodingExamples : Prop :=
  (∀ p ∈ [("NOP".toList, Instr.nop, (0x00000000 : Word)),
      ("SAMPLE 16384".toList, .sample 0x4000, 0x10004000),
      ("SAMPLE -1".toList, .sample 0xFFFF, 0x1000FFFF),
      ("SAMPLE -32768".toList, .sample 0x8000, 0x10008000),
      ("BYTE 0x90".toList, .byte 0x90, 0x20000090),
      ("EOS".toList, .eos, 0x30000000),
      ("RESET".toList, .reset, 0x40000000),
      ("READ STATUS".toList, .read 0x001, 0x50000001),
      ("READ PAY[0]".toList, .read 0x100, 0x50000100),
      ("READ 0x1FF".toList, .read 0x1FF, 0x500001FF)],
    assembleText [p.1] = some [p.2.2] ∧ encode p.2.1 = p.2.2 ∧ decode p.2.2 = .ok p.2.1)
  ∧ decode 0x60000000 = .error .reservedOp
  ∧ decode 0x20000100 = .error .byteHighNotZero
  ∧ decode 0x00010000 = .error .rsvNotZero

/-! ### The step -/

/-- A step takes the oldest input off the list. A command word that decodes runs as that command, on the state that
no longer lists it; with no input the step changes nothing. The list is the model's form of the port (log entry 3). -/
def Obligations.StepRunsDecodedCommand : Prop :=
  ∀ s : State, s.cfg.legal = true →
    (∀ w rest i, s.input = .command w :: rest → decode w = .ok i → step s = exec i { s with input := rest })
    ∧ (s.input = [] → step s = .next s)

/-- A step rejects a command word that is not well-formed and runs any other by its OP (46_host_commands.md R301). -/
def Obligations.StepDispatchesByOpcode : Prop :=
  ∀ (s : State) (w : Word) (rest : List Input), s.cfg.legal = true → s.input = .command w :: rest →
    let s' := { s with input := rest }
    (wellFormedWord w = false →
      step s = .next { s' with
        events := { s.events with evcode := .illegalCommand, evcmd := w, errc := true }
        resp := s.resp ++ [0] })
    ∧ (wellFormedWord w = true →
      ((w.extractLsb' 28 4).toNat = 0 → step s = exec .nop s')
      ∧ ((w.extractLsb' 28 4).toNat = 1 → step s = exec (.sample (w.extractLsb' 0 16)) s')
      ∧ ((w.extractLsb' 28 4).toNat = 2 → step s = exec (.byte (w.extractLsb' 0 8)) s')
      ∧ ((w.extractLsb' 28 4).toNat = 3 → step s = exec .eos s')
      ∧ ((w.extractLsb' 28 4).toNat = 4 → step s = exec .reset s')
      ∧ ((w.extractLsb' 28 4).toNat = 5 → step s = exec (.read (w.extractLsb' 0 9)) s'))

/-- The RESET command and the `rst` input set every element of 10_state.md R57 to its value there, the parameters and
tables staying. Only RESET answers. The draws, inputs and responses of the model stay (log entries 2 to 4). -/
def Obligations.ResetRestoresEveryElement : Prop :=
  ∀ s : State,
    let t : State :=
      { cfg := s.cfg
        session := { res := .running, started := false, zrun := 0, pend := false, lobyte := 0x00, reslen := 0 }
        events := { evcode := .none, evsym := 0, evcmd := 0x00000000, errc := false }
        corr := { ring := List.replicate s.cfg.window 0x0000000000000000, cur := 0 }
        timing := { dbit := false, phase := 0x0000000000000000 }
        framer := { fstate := .channelSeize, cnt := 0, cbit := false, syncreg := 0x0000 }
        assembler :=
          { nibreg := 0, nbc := 0, hinib := 0, hv := false, pay := [], bcnt := 0, rawlen := 0, declen := 0,
            lenv := false, lenco := false, invn := false, invcnt := 0 }
        draws := s.draws
        input := s.input
        resp := s.resp }
    exec .reset s = .next { t with resp := s.resp ++ [0] }
    ∧ (∀ a, Memory.read t.assembler.pay a = 0x00)
    ∧ (∀ rest, s.cfg.legal = true → s.input = .rst :: rest → step s = .next { t with input := rest })
    ∧ State.initial s.cfg = { t with draws := 0, input := [], resp := [] }

/-- A step is refused exactly where the parameters are outside 00_scope.md R8, to which the model adds that STEP lies
in (0, 1.0] (42_timing_recovery.md R190, log entry 8). -/
def Obligations.IllegalConfigurationIsRefused : Prop :=
  ∀ s : State, step s = .refused .illegalConfiguration ↔
    ¬ (0 < s.cfg.freqMark ∧ 0 < s.cfg.freqSpace ∧ s.cfg.freqMark ≠ s.cfg.freqSpace
      ∧ 0 < s.cfg.baud ∧ s.cfg.baud ≤ s.cfg.sampleRate / s.cfg.downsampling
      ∧ 0 < s.cfg.sampleRate ∧ s.cfg.downsampling = 1
      ∧ 1 ≤ s.cfg.capacity ∧ s.cfg.capacity ≤ 256
      ∧ 1 ≤ s.cfg.sampleRate / s.cfg.downsampling / s.cfg.freqMark
      ∧ (∀ t ∈ [s.cfg.rom.ms, s.cfg.rom.mc, s.cfg.rom.ss, s.cfg.rom.sc],
          t.length = s.cfg.sampleRate / s.cfg.downsampling / s.cfg.freqMark)
      ∧ fGt s.cfg.phaseStep 0x0000000000000000 = true ∧ fGt s.cfg.phaseStep 0x3FF0000000000000 = false)

/-- Every command word, legal or not, gives a next state and exactly one response, which is 0 but for READ
(46_host_commands.md R300). -/
def Obligations.EveryCommandGetsOneResponse : Prop :=
  ∀ (s : State) (w : Word) (rest : List Input), s.cfg.legal = true → s.input = .command w :: rest →
    ∃ t, step s = .next t ∧ t.input = rest
      ∧ (∀ a, decode w = .ok (.read a) → t.resp = s.resp ++ [readSpace a s])
      ∧ ((∀ a, decode w ≠ .ok (.read a)) → t.resp = s.resp ++ [0])

/-! ### NOP, READ, EOS, BYTE, and input turned away -/

/-- NOP is the word 0 and only answers 0 (46_host_commands.md R303). -/
def Obligations.NopChangesNothing : Prop :=
  (∀ w : Word, decode w = .ok .nop ↔ w = 0x00000000)
  ∧ ∀ s : State, exec .nop s = .next { s with resp := s.resp ++ [0] }

/-- READ of an address up to 0x0FF answers the register there, or 0 where none is listed, and changes nothing else
(10_state.md R60). A parameter too wide for its register shows its low bits: DEDUCED, log entry 9. -/
def Obligations.ReadAnswersRegisterMap : Prop :=
  ∀ (s : State) (a : BitVec 9), a.toNat ≤ 0x0FF →
    exec (.read a) s = .next { s with resp := s.resp ++ [((registerContents s).lookup a.toNat).getD 0] }

/-- The fields of STATUS, and STATUS right after reset (10_state.md R61); bit 31 is `done` (R56). -/
def Obligations.StatusRegisterFields : Prop :=
  (∀ s : State, ∃ v : Word, exec (.read 0x001) s = .next { s with resp := s.resp ++ [v] }
    ∧ v.extractLsb' 0 3 = resCode s.session.res ∧ v.getLsbD 3 = false
    ∧ v.extractLsb' 4 2 = fstateCode s.framer.fstate ∧ v.extractLsb' 6 2 = 0
    ∧ v.getLsbD 8 = s.session.started ∧ v.getLsbD 9 = s.session.pend
    ∧ v.getLsbD 10 = s.assembler.lenv ∧ v.getLsbD 11 = s.assembler.lenco
    ∧ v.getLsbD 12 = s.assembler.invn ∧ v.getLsbD 13 = s.events.errc ∧ v.extractLsb' 14 2 = 0
    ∧ v.getLsbD 16 = s.timing.dbit ∧ v.getLsbD 17 = s.framer.cbit ∧ v.getLsbD 18 = s.assembler.hv
    ∧ v.extractLsb' 19 12 = 0
    ∧ v.getLsbD 31 = s.done ∧ (s.done = true ↔ s.session.res ≠ .running))
  ∧ ∀ c : Config, statusWord (State.initial c) = 0

/-- READ of an address from 0x100 on answers the payload byte, or 0 at or beyond CAPACITY, whatever RES holds. A byte
not yet assembled reads 0x00 (20_memory.md R82). -/
def Obligations.ReadAnswersPayloadWindow : Prop :=
  ∀ (s : State) (a : BitVec 9), 0x100 ≤ a.toNat →
    (a.toNat - 0x100 < s.cfg.capacity →
      exec (.read a) s =
        .next { s with resp := s.resp ++ [0#24 ++ Memory.read s.assembler.pay (a.toNat - 0x100)] })
    ∧ (s.cfg.capacity ≤ a.toNat - 0x100 → exec (.read a) s = .next { s with resp := s.resp ++ [0] })
    ∧ (s.ArraysSized → s.assembler.bcnt.toNat ≤ a.toNat - 0x100 →
      exec (.read a) s = .next { s with resp := s.resp ++ [0] })

/-- EOS is the word 0x30000000. While running it drops a pending byte and ends the session with StreamExhausted;
after the end it does nothing (46_host_commands.md R306, 45_session_driver.md R274). -/
def Obligations.EosEndsRunningSession : Prop :=
  (∀ w : Word, decode w = .ok .eos ↔ w = 0x30000000)
  ∧ ∀ s : State,
    (s.session.res = .running →
      exec .eos s = .next { s with
        session := { s.session with res := .noResultExhausted, reslen := 0, pend := false }
        events := { s.events with evcode := .streamExhausted }
        resp := s.resp ++ [0] })
    ∧ (s.session.res ≠ .running → exec .eos s = .next { s with resp := s.resp ++ [0] })

/-- BYTE latches the first byte of a pair. With the second it processes the little-endian sample, as SAMPLE does once
no byte is pending (46_host_commands.md R304, 45_session_driver.md R273). -/
def Obligations.ByteCommandPairsBytes : Prop :=
  ∀ (s : State) (b : Byte),
    (s.session.res ≠ .running → exec (.byte b) s = .next { s with resp := s.resp ++ [0] })
    ∧ (s.session.res = .running → s.session.pend = false →
      exec (.byte b) s =
        .next { s with session := { s.session with pend := true, lobyte := b }, resp := s.resp ++ [0] })
    ∧ (s.session.res = .running → s.session.pend = true →
      ∃ t, exec (.byte b) s = .next t
        ∧ exec (.sample (b ++ s.session.lobyte)) { s with session := { s.session with pend := false } } = .next t)

/-- Where SAMPLE, BYTE and EOS have no effect of their own: all three are ignored in a terminal session, and SAMPLE is
rejected while a byte is pending (46_host_commands.md R310 and R302). The word recorded is the command's own, log
entry 13. -/
def Obligations.InputTurnedAway : Prop :=
  (∀ s : State, s.session.res ≠ .running →
    (∀ x, exec (.sample x) s = .next { s with resp := s.resp ++ [0] })
    ∧ (∀ b, exec (.byte b) s = .next { s with resp := s.resp ++ [0] })
    ∧ exec .eos s = .next { s with resp := s.resp ++ [0] })
  ∧ ∀ (s : State) (x : BitVec 16), s.session.res = .running → s.session.pend = true →
    exec (.sample x) s = .next { s with
      events := { s.events with evcode := .illegalCommand, evcmd := 0x1000#16 ++ x, errc := true }
      resp := s.resp ++ [0] }

/-! ### SAMPLE -/

/-- The samples the silence gate drops: a leading zero changes nothing, and the zero that completes a run of 1000 ends
the session before the pipeline sees it (45_session_driver.md R271). -/
def Obligations.SilenceGateDropsZeros : Prop :=
  ∀ s : State, s.session.res = .running → s.session.pend = false →
    (s.session.started = false → exec (.sample 0) s = .next { s with resp := s.resp ++ [0] })
    ∧ (s.session.started = true → s.session.zrun = 999 →
      exec (.sample 0) s = .next { s with
        session := { s.session with res := .noResultSilence, reslen := 0, zrun := 1000 }
        events := { s.events with evcode := .silenceTimeout }
        resp := s.resp ++ [0] })

/-- A sample that passes the gate and does not take the phase past 1.0 changes only the gate, the ring, the cursor,
DBIT and PHASE (45_session_driver.md R272, 43_frame_fsm.md R219). -/
def Obligations.SampleWithoutCellEvent : Prop :=
  ∀ (s : State) (x : BitVec 16), s.session.res = .running → s.session.pend = false → gatePasses x s →
    fGt (phaseBeforeWrap x s) 0x3FF0000000000000 = false →
    exec (.sample x) s = .next { s with
      session := { s.session with started := true, zrun := if x = 0 then s.session.zrun + 1 else 0 }
      corr := ringPush s.cfg.window (normalize x) s.corr
      timing := { dbit := decisionOf x s, phase := phaseBeforeWrap x s }
      resp := s.resp ++ [0] }

/-- A sample that takes the phase past 1.0 does the same, subtracts 1.0 and runs one cell event with the sample's
decision, in the same step (42_timing_recovery.md R193, 45_session_driver.md R272). No cell event touches ERRC or EVCMD
(60_exceptions.md R342, R344). -/
def Obligations.SampleWithCellEvent : Prop :=
  ∀ (s : State) (x : BitVec 16), s.session.res = .running → s.session.pend = false → gatePasses x s →
    fGt (phaseBeforeWrap x s) 0x3FF0000000000000 = true →
    ∃ t, exec (.sample x) s = .next t
      ∧ t = respond 0 (cellEvent (decisionOf x s)
          { beforeWrap x s with
            timing := { dbit := decisionOf x s, phase := fSub (phaseBeforeWrap x s) 0x3FF0000000000000 } })
      ∧ t.corr = ringPush s.cfg.window (normalize x) s.corr
      ∧ t.timing = { dbit := decisionOf x s, phase := fSub (phaseBeforeWrap x s) 0x3FF0000000000000 }
      ∧ t.framer.cbit = decisionOf x s
      ∧ t.session.started = true ∧ t.session.zrun = zrunAfter x s
      ∧ t.session.pend = s.session.pend ∧ t.session.lobyte = s.session.lobyte
      ∧ t.events.errc = s.events.errc ∧ t.events.evcmd = s.events.evcmd
      ∧ t.cfg = s.cfg ∧ t.input = s.input ∧ t.resp = s.resp ++ [0]

/-! ### Correlator, detector and arithmetic -/

/-- RING_PUSH writes the entry at the cursor, leaves every other entry, and advances the cursor modulo N
(40_correlator.md R154). -/
def Obligations.RingTakesSampleAtCursor : Prop :=
  ∀ (n : Nat) (x : B64) (k : Correlator),
    (ringPush n x k).cur = (k.cur + 1) % n
    ∧ (ringPush n x k).ring.length = k.ring.length
    ∧ (k.cur < k.ring.length → ringRead (ringPush n x k) k.cur = x)
    ∧ ∀ i, i ≠ k.cur → ringRead (ringPush n x k) i = ringRead k i

/-- NORMALIZE is exact: x · 32768 = s, and s = 0 gives +0.0 (40_correlator.md R153). -/
def Obligations.NormalizeIsExact : Prop :=
  ∀ s : BitVec 16,
    fIsFinite (normalize s) = true ∧ fValue (normalize s) * 32768 = s.toInt * unitsPerOne
    ∧ (s = 0 → normalize s = 0x0000000000000000)

/-- Each sum starts from +0.0 and takes its products in table order, each product and each sum rounded once; the ring
is read from the advanced cursor for AFTER and from the old one for BEFORE (40_correlator.md R155). -/
def Obligations.SumsAccumulateInTableOrder : Prop :=
  ∀ (c : Config) (old : Nat) (k : Correlator),
    let base := if c.align = .after then k.cur else old
    let sums := correlate c old k
    ∀ p ∈ [(sums.markSin, c.rom.ms), (sums.markCos, c.rom.mc), (sums.spaceSin, c.rom.ss), (sums.spaceCos, c.rom.sc)],
      ∃ acc : Nat → B64, acc 0 = 0x0000000000000000
        ∧ (∀ j, j < c.window →
            acc (j + 1) = fAdd (acc j) (fMul (ringRead k ((base + j) % c.window)) (romRead p.2 j)))
        ∧ p.1 = acc c.window

/-- DETECT is the strict comparison of the two energies; a tie is space (41_bit_detector.md R180, R181). -/
def Obligations.DetectorIsStrictComparison : Prop :=
  ∀ c : Sums,
    let eMark := fAdd (fMul c.markSin c.markSin) (fMul c.markCos c.markCos)
    let eSpace := fAdd (fMul c.spaceSin c.spaceSin) (fMul c.spaceCos c.spaceCos)
    detect c = fGt eMark eSpace ∧ (eMark = eSpace → detect c = false)

/-- A finite sum of finite numbers is the nearest binary64 number to the exact sum, ties to even (00_scope.md R11). -/
def Obligations.AddIsNearestEven : Prop :=
  ∀ a b : B64, fIsFinite a = true → fIsFinite b = true → fIsFinite (fAdd a b) = true →
    IsNearestEven (fValue a + fValue b) 1 (fAdd a b)

/-- A finite product of finite numbers is the nearest binary64 number to the exact product, ties to even
(00_scope.md R11). -/
def Obligations.MulIsNearestEven : Prop :=
  ∀ a b : B64, fIsFinite a = true → fIsFinite b = true → fIsFinite (fMul a b) = true →
    IsNearestEven (fValue a * fValue b) unitsPerOne (fMul a b)

/-- A finite quotient of finite numbers is the nearest binary64 number to the exact quotient, ties to even
(00_scope.md R11). -/
def Obligations.DivIsNearestEven : Prop :=
  ∀ a b : B64, fIsFinite a = true → fIsFinite b = true → fValue b ≠ 0 → fIsFinite (fDiv a b) = true →
    IsNearestEven (fValue a * unitsPerOne * (fValue b).sign) (fValue b).natAbs (fDiv a b)

/-- `>f` of finite numbers compares their values (00_scope.md R11). -/
def Obligations.GreaterIsNumericOrder : Prop :=
  ∀ a b : B64, fIsFinite a = true → fIsFinite b = true → (fGt a b = true ↔ fValue b < fValue a)

/-- The wrap's subtraction is exact: 1.0 < p ≤ 2.0 (42_timing_recovery.md R193 case b). -/
def Obligations.WrapSubtractionIsExact : Prop :=
  ∀ p : B64, fIsFinite p = true → fGt p 0x3FF0000000000000 = true → fGt p 0x4000000000000000 = false →
    fIsFinite (fSub p 0x3FF0000000000000) = true
      ∧ fValue (fSub p 0x3FF0000000000000) = fValue p - unitsPerOne

/-- The tables of the reset state are the sines and cosines of 40_correlator.md R152 for Bell 202 at 8000 Hz, each the
nearest binary64 number to the real value. That reset has this profile is log entry 1. -/
def Obligations.BellTablesAreNearestSines : Prop :=
  ∀ i : Nat, i < 6 →
    IsNearestReal (Real.sin (2 * Real.pi * 1200 * i / 8000)) (State.reset.cfg.rom.ms.getD i 0)
    ∧ IsNearestReal (Real.cos (2 * Real.pi * 1200 * i / 8000)) (State.reset.cfg.rom.mc.getD i 0)
    ∧ IsNearestReal (Real.sin (2 * Real.pi * 2200 * i / 8000)) (State.reset.cfg.rom.ss.getD i 0)
    ∧ IsNearestReal (Real.cos (2 * Real.pi * 2200 * i / 8000)) (State.reset.cfg.rom.sc.getD i 0)

/-! ### Frame state machine -/

/-- SEIZE_STEP and CARRIER_STEP by cases, with CBIT (43_frame_fsm.md R210, R212, R214). The counts compared are the
5-bit register's: CNT + 1 wraps only from 31, which no reachable state holds (log entry 11). -/
def Obligations.CountingCellRules : Prop :=
  ∀ (s : State) (bit : Bool), s.framer.cnt.toNat ≤ 30 →
    (s.framer.fstate = .channelSeize →
      cellEvent bit s = { s with framer :=
        if bit = s.framer.cbit then { s.framer with cnt := 0, cbit := bit }
        else if s.framer.cnt.toNat = 30 then { s.framer with fstate := .sync, cnt := 0, cbit := bit }
        else { s.framer with cnt := s.framer.cnt + 1, cbit := bit } })
    ∧ (s.framer.fstate = .carrierSignal →
      cellEvent bit s = { s with framer :=
        if bit = false then { s.framer with cnt := 0, cbit := bit }
        else if 15 ≤ s.framer.cnt.toNat then { s.framer with fstate := .data, cnt := 0, cbit := bit }
        else { s.framer with cnt := s.framer.cnt + 1, cbit := bit } })

/-- SYNC_STEP: the inverted decision enters at bit 0, and the register that equals 0xAB4D after the shift starts Data
(43_frame_fsm.md R213). -/
def Obligations.SyncCellRule : Prop :=
  ∀ (s : State) (bit : Bool), s.framer.fstate = .sync →
    let reg : BitVec 16 := s.framer.syncreg.extractLsb' 0 15 ++ (if bit then 0#1 else 1#1)
    cellEvent bit s = { s with framer :=
      { s.framer with
        syncreg := reg
        fstate := if reg = 0xAB4D then .data else .sync
        cbit := bit } }

/-- From CNT = 0 an alternation that starts with a flip reaches Sync on its 31st cell, one that starts with a repeat on
its 32nd, and a repeated bit clears the count (43_frame_fsm.md R217). -/
def Obligations.SeizureRunLength : Prop :=
  ∀ s : State, s.framer.fstate = .channelSeize → s.framer.cnt = 0 →
    (∀ n, n ≤ 30 → (runCells (alternatingCells n (!s.framer.cbit)) s).framer.fstate = .channelSeize
      ∧ (runCells (alternatingCells n (!s.framer.cbit)) s).framer.cnt.toNat = n)
    ∧ (runCells (alternatingCells 31 (!s.framer.cbit)) s).framer.fstate = .sync
    ∧ (runCells (alternatingCells 31 (!s.framer.cbit)) s).framer.cnt = 0
    ∧ (runCells (alternatingCells 31 s.framer.cbit) s).framer.fstate = .channelSeize
    ∧ (runCells (alternatingCells 32 s.framer.cbit) s).framer.fstate = .sync
    ∧ ∀ n, n ≤ 30 → ∀ b, b = (runCells (alternatingCells n (!s.framer.cbit)) s).framer.cbit →
      (cellEvent b (runCells (alternatingCells n (!s.framer.cbit)) s)).framer.cnt = 0

/-- From SYNCREG = 0 no run of 15 cells or fewer leaves Sync, and a run of 16 does exactly when it is the sync word's
(43_frame_fsm.md R213 case a, R218). -/
def Obligations.SyncWordNeedsSixteenCells : Prop :=
  ∀ (s : State) (bits : List Bool), s.framer.fstate = .sync → s.framer.syncreg = 0 →
    (bits.length ≤ 15 → (runCells bits s).framer.fstate = .sync)
    ∧ (bits.length = 16 → ((runCells bits s).framer.fstate = .data ↔ bits = valueCells 16 0xAB4D))

/-- FSTATE moves only ChannelSeize to Sync, Sync to Data and CarrierSignal to Data, and only a reset returns it
(43_frame_fsm.md R211). -/
def Obligations.FrameStateMovesForward : Prop :=
  ∀ s t : State, step s = .next t →
    (s.resetIsNext → t.framer.fstate = .channelSeize)
    ∧ (¬ s.resetIsNext → t.framer.fstate = s.framer.fstate
      ∨ (s.framer.fstate = .channelSeize ∧ t.framer.fstate = .sync)
      ∨ (s.framer.fstate = .sync ∧ t.framer.fstate = .data)
      ∨ (s.framer.fstate = .carrierSignal ∧ t.framer.fstate = .data))

/-! ### Symbols, bytes, length and completion -/

/-- A Data cell before the sixth of its symbol shifts its line bit in at bit 0, counts it, sets CBIT and changes nothing
else, whatever NIBREG holds. So six Data cells of a nibble's symbol, first line bit first, leave that nibble as the high
half of a byte (44_nibble_byte_assembler.md R240, R242, R243). -/
def Obligations.SymbolCellsMakeOneNibble : Prop :=
  (∀ (s : State) (bit : Bool), s.framer.fstate = .data → s.assembler.nbc.toNat ≤ 4 →
    cellEvent bit s = { s with
      framer := { s.framer with cbit := bit }
      assembler := { s.assembler with
        nibreg := s.assembler.nibreg.extractLsb' 0 5 ++ (if bit then 0#1 else 1#1)
        nbc := s.assembler.nbc + 1 } })
  ∧ ∀ (s : State) (v : Nat), v < 16 → s.framer.fstate = .data → s.assembler.nbc = 0 → s.assembler.hv = false →
    runCells (valueCells 6 (nibbleSymbol v)) s = { s with
      framer := { s.framer with cbit := !((nibbleSymbol v).testBit 0) }
      assembler := { s.assembler with
        nibreg := BitVec.ofNat 6 (nibbleSymbol v), nbc := 0, hinib := BitVec.ofNat 4 v, hv := true } }

/-- A sixth line bit that makes a symbol outside the table still takes a nibble position. The nibble is the free value
`draw4`, whatever it is, and the symbol is counted and reported (44_nibble_byte_assembler.md R241; the draw is the
model's, log entry 2). -/
def Obligations.InvalidSymbolTakesFreeNibble : Prop :=
  ∀ (s : State) (bit : Bool), s.framer.fstate = .data → s.assembler.nbc = 5 →
    let sym : BitVec 6 := s.assembler.nibreg.extractLsb' 0 5 ++ (if bit then 0#1 else 1#1)
    (∀ v, v < 16 → nibbleSymbol v ≠ sym.toNat) →
    let noted : State := { s with
      assembler := { s.assembler with nibreg := sym, nbc := 0, invn := true, invcnt := s.assembler.invcnt + 1 }
      events := { s.events with evcode := .invalidNibble, evsym := sym }
      draws := s.draws + 1 }
    (s.assembler.hv = false →
      cellEvent bit s = { noted with
        framer := { s.framer with cbit := bit }
        assembler := { noted.assembler with hinib := Config.draw4 s.draws, hv := true } })
    ∧ (s.assembler.hv = true →
      cellEvent bit s =
        let stored := storeByte (s.assembler.hinib ++ Config.draw4 s.draws)
          { noted with assembler := { noted.assembler with hv := false } }
        { stored with framer := { s.framer with cbit := bit } })

/-- Twelve Data cells of a byte store that byte, its high nibble from the earlier symbol
(44_nibble_byte_assembler.md R244). -/
def Obligations.ByteCellsStoreOneByte : Prop :=
  ∀ (s : State) (b : Byte), s.framer.fstate = .data → s.assembler.nbc = 0 → s.assembler.hv = false →
    let stored := storeByte b { s with assembler := { s.assembler with
      nibreg := BitVec.ofNat 6 (nibbleSymbol (b.toNat % 16)), nbc := 0
      hinib := BitVec.ofNat 4 (b.toNat / 16), hv := false } }
    runCells (byteCells b) s =
      { stored with framer := { s.framer with cbit := !((nibbleSymbol (b.toNat % 16)).testBit 0) } }

/-- STORE_BYTE away from the second and the last byte: the byte goes to PAY[BCNT] and every other payload byte stays;
with no room the byte is discarded and the session overflows (44_nibble_byte_assembler.md R245, 60_exceptions.md
R343). -/
def Obligations.StoreByteStoresOrOverflows : Prop :=
  ∀ (s : State) (v : Byte), s.assembler.pay.wf = true →
    (s.assembler.bcnt.toNat < s.cfg.capacity → s.assembler.bcnt ≠ 1 →
      ¬ (s.assembler.lenv = true ∧ (s.assembler.bcnt + 1).toNat = s.assembler.declen.toNat / 2) →
      ∃ m : Memory, storeByte v s = { s with
          assembler := { s.assembler with pay := m, bcnt := s.assembler.bcnt + 1 } }
        ∧ m.wf = true
        ∧ ∀ a, Memory.read m a = if a = s.assembler.bcnt.toNat then v else Memory.read s.assembler.pay a)
    ∧ (s.cfg.capacity ≤ s.assembler.bcnt.toNat →
      storeByte v s = { s with
        session := { s.session with res := .overflow, reslen := BitVec.ofNat 9 s.cfg.capacity }
        events := { s.events with evcode := .bufferOverflow } })

/-- The second byte fixes the length: RAWLEN is twice the header plus 4, DECLEN keeps 292 and is 288 otherwise, and
only the coercion is flagged and reported (44_nibble_byte_assembler.md R246). -/
def Obligations.SecondByteFixesLength : Prop :=
  ∀ (s : State) (v : Byte), s.assembler.pay.wf = true → s.assembler.bcnt = 1 → 2 ≤ s.cfg.capacity →
    let raw := 2 * ((Memory.read s.assembler.pay 0).toNat * 256 + v.toNat) + 4
    ∃ m : Memory, storeByte v s = { s with
        assembler := { s.assembler with
          pay := m, bcnt := 2, rawlen := BitVec.ofNat 18 raw
          declen := if raw = 292 then 292 else 288
          lenco := if raw = 292 then s.assembler.lenco else true
          lenv := true }
        events := if raw = 292 then s.events else { s.events with evcode := .malformedLengthField } }
      ∧ m.wf = true ∧ raw < 2 ^ 18
      ∧ ∀ a, Memory.read m a = if a = 1 then v else Memory.read s.assembler.pay a

/-- The byte that brings BCNT to DECLEN/2 completes the frame: SUCCESS, or DEGRADED after an invalid symbol
(44_nibble_byte_assembler.md R249). -/
def Obligations.LastByteCompletesFrame : Prop :=
  ∀ (s : State) (v : Byte), s.assembler.pay.wf = true → s.assembler.bcnt.toNat < s.cfg.capacity →
    s.assembler.bcnt ≠ 1 → s.assembler.lenv = true →
    (s.assembler.bcnt + 1).toNat = s.assembler.declen.toNat / 2 →
    ∃ m : Memory, storeByte v s = { s with
        session := { s.session with
          res := if s.assembler.invn = true then .degraded else .success
          reslen := s.assembler.bcnt + 1 }
        assembler := { s.assembler with pay := m, bcnt := s.assembler.bcnt + 1 }
        events := { s.events with evcode := .frameComplete } }
      ∧ m.wf = true
      ∧ ∀ a, Memory.read m a = if a = s.assembler.bcnt.toNat then v else Memory.read s.assembler.pay a

/-- A whole frame in the Data state decodes to its payload: 146 bytes after the header 0x00, 0x90 and 144 bytes after
any other, in order, with SUCCESS, wherever CAPACITY holds that many (44_nibble_byte_assembler.md R247, R248; fskj
Testable Properties 1 and 7). -/
def Obligations.FrameDecodesToPayload : Prop :=
  ∀ (s : State) (h0 h1 : Byte) (body : List Byte),
    s.framer.fstate = .data → s.session.res = .running →
    s.assembler = (State.initial s.cfg).assembler →
    body.length = (if h0 = 0x00 ∧ h1 = 0x90 then 144 else 142) → body.length + 2 ≤ s.cfg.capacity →
    let t := runCells (frameCells (h0 :: h1 :: body)) s
    t.session.res = .success
      ∧ t.session.reslen.toNat = body.length + 2
      ∧ t.assembler.lenco = !decide (h0 = 0x00 ∧ h1 = 0x90)
      ∧ ∀ i, i < body.length + 2 → Memory.read t.assembler.pay i = (h0 :: h1 :: body).getD i 0

/-- `report` and `terminate`, event by event (60_exceptions.md R341, R343). -/
def Obligations.ReportAndTerminateRules : Prop :=
  (∀ (e : Event) (info : Word) (s : State),
    report e info s = { s with events :=
      { evcode := e
        evsym := if e = .invalidNibble then info.extractLsb' 0 6 else s.events.evsym
        evcmd := if e = .illegalCommand then info else s.events.evcmd
        errc := if e = .illegalCommand then true else s.events.errc } })
  ∧ ∀ s : State,
    terminate .streamExhausted s = { s with
      session := { s.session with res := .noResultExhausted, reslen := 0 }
      events := { s.events with evcode := .streamExhausted } }
    ∧ terminate .silenceTimeout s = { s with
      session := { s.session with res := .noResultSilence, reslen := 0 }
      events := { s.events with evcode := .silenceTimeout } }
    ∧ terminate .bufferOverflow s = { s with
      session := { s.session with res := .overflow, reslen := BitVec.ofNat 9 s.cfg.capacity }
      events := { s.events with evcode := .bufferOverflow } }

/-! ### Invariants of every step -/

/-- Every step keeps every array at its size, every index in range, and the payload canonical (20_memory.md R83). -/
def Obligations.StepKeepsArraysSized : Prop :=
  ∀ s t : State, s.ArraysSized → step s = .next t → t.ArraysSized

/-- Every step keeps CarrierSignal unreached, CNT at most 30, and the sync register and assembler as their states
allow (43_frame_fsm.md R216, 10_state.md R46, R48). -/
def Obligations.StepKeepsFrameSane : Prop :=
  ∀ s t : State, s.FrameSane → step s = .next t → t.FrameSane

/-- Every step keeps the length registers true to the header and the invalid-symbol count below its width
(10_state.md R53 to R55). -/
def Obligations.StepKeepsAssemblerSane : Prop :=
  ∀ s t : State, s.ArraysSized → s.FrameSane → s.AssemblerSane → step s = .next t → t.AssemblerSane

/-- Every step keeps RESLEN, RES, PEND and ZRUN in agreement (10_state.md R34 to R36, 46_host_commands.md R302 case
d). -/
def Obligations.StepKeepsOutcomeSane : Prop :=
  ∀ s t : State, s.ArraysSized → s.FrameSane → s.AssemblerSane → s.OutcomeSane → step s = .next t → t.OutcomeSane

/-- Every step keeps PHASE in [+0.0, 1.0] (10_state.md R42, 42_timing_recovery.md R195). -/
def Obligations.StepKeepsPhaseInRange : Prop :=
  ∀ s t : State, s.PhaseInRange → step s = .next t → t.PhaseInRange

/-- The reset state of every legal configuration meets every invariant, and the default configuration is legal (its
profile is the model's choice, log entry 1). -/
def Obligations.InitialStateMeetsInvariants : Prop :=
  (∀ c : Config, c.legal = true →
    (State.initial c).ArraysSized ∧ (State.initial c).FrameSane ∧ (State.initial c).AssemblerSane
    ∧ (State.initial c).OutcomeSane ∧ (State.initial c).PhaseInRange)
  ∧ State.reset = State.initial Config.bell202 ∧ Config.bell202.legal = true

/-- Whatever the host sends, a block with legal parameters reaches only states that meet every invariant, and from
each the next step answers a next state. What the host sends joins the model's list of inputs (log entry 3). -/
def Obligations.ReachableStatesMeetInvariants : Prop :=
  ∀ (c : Config) (s : State), c.legal = true → Reachable c s →
    s.cfg = c ∧ s.ArraysSized ∧ s.FrameSane ∧ s.AssemblerSane ∧ s.OutcomeSane ∧ s.PhaseInRange
    ∧ ∃ t, step s = .next t

/-- After every processed sample 0.0 < PHASE ≤ 1.0 (42_timing_recovery.md R195). -/
def Obligations.PhasePositiveAfterSample : Prop :=
  ∀ (s t : State) (x : BitVec 16), s.cfg.legal = true → s.PhaseInRange → s.session.res = .running →
    s.session.pend = false → gatePasses x s → exec (.sample x) s = .next t →
    0x0000000000000000 < t.timing.phase ∧ t.timing.phase ≤ 0x3FF0000000000000

/-- No step changes the parameters or the tables (00_scope.md R8, 70_reset_and_hazards.md R381). -/
def Obligations.ConfigurationNeverChanges : Prop :=
  ∀ s t : State, step s = .next t → t.cfg = s.cfg

/-! ### Sessions -/

/-- In a terminal session a step that is no reset changes at most the event registers, and those only by rejecting an
illegal word (60_exceptions.md R347, 46_host_commands.md R310). -/
def Obligations.TerminalStateIsLeftOnlyByReset : Prop :=
  ∀ s t : State, s.session.res ≠ .running → ¬ s.resetIsNext → step s = .next t →
    t = { s with events := t.events, input := s.input.tail, resp := t.resp }
    ∧ (t.events = s.events ∨ ∃ w, s.input.head? = some (.command w) ∧ wellFormedWord w = false
        ∧ t.events = { s.events with evcode := .illegalCommand, evcmd := w, errc := true })

/-- A running session ends only by EOS, by the 1000th zero, by completion or by overflow (45_session_driver.md
R275). -/
def Obligations.SessionEndsInFourWays : Prop :=
  ∀ s t : State, s.session.res = .running → step s = .next t → t.session.res ≠ .running →
    (t.session.res = .noResultExhausted ∧ s.input.head? = some (.command 0x30000000))
    ∨ (t.session.res = .noResultSilence ∧ s.session.started = true ∧ s.session.zrun = 999 ∧ t.session.zrun = 1000)
    ∨ (t.session.res = (if t.assembler.invn = true then .degraded else .success) ∧ t.assembler.lenv = true
        ∧ t.assembler.bcnt.toNat = t.assembler.declen.toNat / 2 ∧ t.session.reslen = t.assembler.bcnt)
    ∨ (t.session.res = .overflow ∧ s.cfg.capacity ≤ s.assembler.bcnt.toNat ∧ t.assembler.bcnt = s.assembler.bcnt
        ∧ t.assembler.pay = s.assembler.pay)

/-- A run of zero samples that brings the interior run to 1000 ends a running session: with SilenceTimeout, or by the
frame's own end before that (45_session_driver.md R276 case c). -/
def Obligations.SilenceRunEndsSession : Prop :=
  ∀ (s : State) (rest : List Input), s.cfg.legal = true → s.session.res = .running → s.session.pend = false →
    s.session.started = true → s.session.zrun.toNat < 1000 →
    s.input = zeroSamples (1000 - s.session.zrun.toNat) ++ rest →
    ∃ t, runSteps (1000 - s.session.zrun.toNat) s = .next t ∧ t.input = rest
      ∧ ((t.session.res = .noResultSilence ∧ t.session.zrun = 1000 ∧ t.session.reslen = 0)
        ∨ t.session.res = .success ∨ t.session.res = .degraded ∨ t.session.res = .overflow)

/-- Leading zero samples change nothing, however many, so the stream after them runs as if they were not there
(45_session_driver.md R276 cases a and b). Only the responses they get stay. -/
def Obligations.LeadingZerosAreFree : Prop :=
  ∀ (n : Nat) (s : State) (rest : List Input), s.cfg.legal = true → s.session.res = .running →
    s.session.pend = false → s.session.started = false → s.input = zeroSamples n ++ rest →
    runSteps n s = .next { s with input := rest, resp := s.resp ++ List.replicate n 0 }
    ∧ (rest = [.command 0x30000000] →
      ∃ t, runSteps (n + 1) s = .next t ∧ t.session.res = .noResultExhausted ∧ t.session.reslen = 0)

/-- While running, a sample sent as two bytes, low byte first, leaves the block as SAMPLE leaves it but for LOBYTE,
which keeps the low byte, and one response more (46_host_commands.md R305). -/
def Obligations.BytePairEqualsSample : Prop :=
  ∀ (s : State) (x : BitVec 16), s.session.res = .running → s.session.pend = false →
    ∃ s1 t u, exec (.byte (x.extractLsb' 0 8)) s = .next s1 ∧ exec (.byte (x.extractLsb' 8 8)) s1 = .next t
      ∧ exec (.sample x) s = .next u
      ∧ t = { u with session := { u.session with lobyte := x.extractLsb' 0 8 }, resp := u.resp ++ [0] }

/-- Data flows only downstream: what a sample does to the correlator, the timing and the gate does not depend on the
frame state machine, the assembler, the events or the draws (00_scope.md R3). -/
def Obligations.FrontEndIgnoresBackEnd : Prop :=
  ∀ (s t s' t' : State) (x : BitVec 16),
    s.cfg = t.cfg → s.corr = t.corr → s.timing = t.timing → s.session.started = t.session.started →
    s.session.zrun = t.session.zrun → s.session.res = .running → t.session.res = .running →
    s.session.pend = false → t.session.pend = false →
    exec (.sample x) s = .next s' → exec (.sample x) t = .next t' →
    s'.corr = t'.corr ∧ s'.timing = t'.timing ∧ s'.session.started = t'.session.started
      ∧ s'.session.zrun = t'.session.zrun

/-- No READ shows RING or the reference tables (10_state.md R62). -/
def Obligations.ReadHidesRingAndTables : Prop :=
  ∀ (s : State) (a : BitVec 9) (ring : List B64) (rom : RefRom),
    readSpace a { s with corr := { s.corr with ring := ring }, cfg := { s.cfg with rom := rom } } = readSpace a s

/-! ### Assembler text -/

/-- The assembler refuses an operand out of range and never truncates one, in the commands and in the
pseudo-instructions (30_encoding.md R116, R117). That PAY[i] takes i from 0 to 255 whatever CAPACITY, and that SAMPLES
without an operand is refused, is the model's choice, log entry 14. -/
def Obligations.AssemblerTruncatesNothing : Prop :=
  (∀ v : Int, if -32768 ≤ v ∧ v ≤ 32767
    then ∃ x : BitVec 16, x.toInt = v ∧ assembleLine (.sample (.dec v)) = some [.sample x]
      ∧ assembleLine (.pcm (.dec v)) = some [.byte (x.extractLsb' 0 8), .byte (x.extractLsb' 8 8)]
    else assembleLine (.sample (.dec v)) = none ∧ assembleLine (.pcm (.dec v)) = none)
  ∧ (∀ v : Nat, if v ≤ 0xFFFF
    then ∃ x : BitVec 16, x.toNat = v ∧ assembleLine (.sample (.hex v)) = some [.sample x]
      ∧ assembleLine (.pcm (.hex v)) = some [.byte (x.extractLsb' 0 8), .byte (x.extractLsb' 8 8)]
    else assembleLine (.sample (.hex v)) = none ∧ assembleLine (.pcm (.hex v)) = none)
  ∧ (∀ ls : List Literal, assembleLine (.samples ls) =
      if ls = [] then none else (ls.mapM (fun l => assembleLine (.sample l))).map List.flatten)
  ∧ (∀ l : Literal, if 0 ≤ l.value
    then ∃ n : Nat, (n : Int) = l.value ∧ assembleLine (.zeros l) = some (List.replicate n (.sample 0))
      ∧ assembleLine (.pcmZeros l) = some (List.replicate (2 * n) (.byte 0))
    else assembleLine (.zeros l) = none ∧ assembleLine (.pcmZeros l) = none)
  ∧ (∀ l : Literal, if 0 ≤ l.value ∧ l.value ≤ 255
    then ∃ b, assembleLine (.byte l) = some [.byte b] ∧ (b.toNat : Int) = l.value
    else assembleLine (.byte l) = none)
  ∧ (∀ l : Literal, if 0 ≤ l.value ∧ l.value ≤ 0x1FF
    then ∃ a, assembleLine (.read (.addr l)) = some [.read a] ∧ (a.toNat : Int) = l.value
    else assembleLine (.read (.addr l)) = none)
  ∧ (∀ l : Literal, if 0 ≤ l.value ∧ l.value ≤ 0xFF
    then ∃ a, assembleLine (.read (.pay l)) = some [.read a] ∧ (a.toNat : Int) = 0x100 + l.value
    else assembleLine (.read (.pay l)) = none)
end

