-- ==== Sys2Proof/Laws/Memory.lean ====
section
/-! SUPPORT. The payload memory: a write is read back, leaves every other address alone, and keeps the canonical form. -/

namespace Sys2Proof.Machine

@[simp] theorem Memory.read_nil (a : Nat) : Memory.read [] a = Memory.blankByte := rfl

/-- Below its first address a canonical memory reads blank. -/
theorem Memory.read_below {lo a : Nat} {m : Memory} (h : Memory.wfFrom lo m = true) (ha : a < lo) :
    Memory.read m a = Memory.blankByte := by
  induction m generalizing lo with
  | nil => rfl
  | cons c rest ih =>
    obtain ⟨b, w⟩ := c
    simp only [Memory.wfFrom, Bool.and_eq_true, decide_eq_true_eq] at h
    rw [Memory.read, if_neg (by omega)]
    exact ih h.2 (by omega)

/-- A canonical memory is canonical from any lower address on. -/
theorem Memory.wfFrom_mono {lo lo' : Nat} {m : Memory} (h : Memory.wfFrom lo m = true) (hl : lo' ≤ lo) :
    Memory.wfFrom lo' m = true := by
  cases m with
  | nil => rfl
  | cons c rest =>
    obtain ⟨b, w⟩ := c
    simp only [Memory.wfFrom, Bool.and_eq_true, decide_eq_true_eq] at h ⊢
    exact ⟨⟨by omega, h.1.2⟩, h.2⟩

theorem Memory.push_wfFrom {lo a : Nat} {v : Byte} {m : Memory} (hm : Memory.wfFrom (a + 1) m = true) (hl : lo ≤ a) :
    Memory.wfFrom lo (Memory.push a v m) = true := by
  unfold Memory.push
  split
  · exact Memory.wfFrom_mono hm (by omega)
  · simp_all [Memory.wfFrom]

/-- Reading after a byte is put in front of a canonical memory. -/
theorem Memory.read_push {a b : Nat} {v : Byte} {m : Memory} (hm : Memory.wfFrom (a + 1) m = true) :
    Memory.read (Memory.push a v m) b = if b = a then v else Memory.read m b := by
  unfold Memory.push
  split
  · split
    · subst_vars; exact Memory.read_below hm (by omega)
    · rfl
  · rfl

theorem Memory.write_wfFrom {lo a : Nat} {v : Byte} {m : Memory} (hm : Memory.wfFrom lo m = true) (hl : lo ≤ a) :
    Memory.wfFrom lo (Memory.write m a v) = true := by
  induction m generalizing lo with
  | nil => exact Memory.push_wfFrom rfl hl
  | cons c rest ih =>
    obtain ⟨b, w⟩ := c
    simp only [Memory.wfFrom, Bool.and_eq_true, decide_eq_true_eq] at hm
    unfold Memory.write
    split
    · refine Memory.push_wfFrom ?_ hl
      simp only [Memory.wfFrom, Bool.and_eq_true, decide_eq_true_eq]
      exact ⟨⟨by omega, hm.1.2⟩, hm.2⟩
    · split
      · subst_vars; exact Memory.push_wfFrom hm.2 hl
      · simp only [Memory.wfFrom, Bool.and_eq_true, decide_eq_true_eq]
        exact ⟨hm.1, ih hm.2 (by omega)⟩

/-- A write keeps the canonical form. -/
theorem Memory.write_wf {m : Memory} (h : m.wf = true) (a : Nat) (v : Byte) : (Memory.write m a v).wf = true :=
  Memory.write_wfFrom h (Nat.zero_le a)

theorem Memory.read_write_from {lo a b : Nat} {v : Byte} {m : Memory} (hm : Memory.wfFrom lo m = true) :
    Memory.read (Memory.write m a v) b = if b = a then v else Memory.read m b := by
  induction m generalizing lo with
  | nil => exact Memory.read_push rfl
  | cons c rest ih =>
    obtain ⟨d, w⟩ := c
    simp only [Memory.wfFrom, Bool.and_eq_true, decide_eq_true_eq] at hm
    unfold Memory.write
    split
    · refine Memory.read_push ?_
      simp only [Memory.wfFrom, Bool.and_eq_true, decide_eq_true_eq]
      exact ⟨⟨by omega, hm.1.2⟩, hm.2⟩
    · split
      · subst_vars
        rw [Memory.read_push hm.2]
        split
        · rfl
        · rename_i hne; rw [Memory.read, if_neg hne]
      · simp only [Memory.read, ih hm.2]
        split <;> split <;> first | rfl | omega

/-- A write is read back, and every other address reads as before. -/
theorem Memory.read_write {m : Memory} (h : m.wf = true) (a b : Nat) (v : Byte) :
    Memory.read (Memory.write m a v) b = if b = a then v else Memory.read m b :=
  Memory.read_write_from h

/-- The memory of the reset state is canonical. -/
theorem State.initial_pay_wf (c : Config) : (State.initial c).assembler.pay.wf = true := rfl

end Sys2Proof.Machine
end

