-- ==== Sys2Proof/Laws/State.lean ====
section
/-! SUPPORT. What each update of the state leaves in each field: one lemma per field per update, true by `rfl`. -/

namespace Sys2Proof.Machine

variable (s : State)

/-! ### respond -/

@[simp] theorem respond_cfg (w : Word) : (respond w s).cfg = s.cfg := rfl
@[simp] theorem respond_session (w : Word) : (respond w s).session = s.session := rfl
@[simp] theorem respond_events (w : Word) : (respond w s).events = s.events := rfl
@[simp] theorem respond_corr (w : Word) : (respond w s).corr = s.corr := rfl
@[simp] theorem respond_timing (w : Word) : (respond w s).timing = s.timing := rfl
@[simp] theorem respond_framer (w : Word) : (respond w s).framer = s.framer := rfl
@[simp] theorem respond_assembler (w : Word) : (respond w s).assembler = s.assembler := rfl
@[simp] theorem respond_draws (w : Word) : (respond w s).draws = s.draws := rfl
@[simp] theorem respond_input (w : Word) : (respond w s).input = s.input := rfl
@[simp] theorem respond_resp (w : Word) : (respond w s).resp = s.resp ++ [w] := rfl

/-! ### report -/

@[simp] theorem report_cfg (e : Event) (info : Word) : (report e info s).cfg = s.cfg := rfl
@[simp] theorem report_session (e : Event) (info : Word) : (report e info s).session = s.session := rfl
@[simp] theorem report_events (e : Event) (info : Word) : (report e info s).events = reportEvent e info s.events :=
    rfl
@[simp] theorem report_corr (e : Event) (info : Word) : (report e info s).corr = s.corr := rfl
@[simp] theorem report_timing (e : Event) (info : Word) : (report e info s).timing = s.timing := rfl
@[simp] theorem report_framer (e : Event) (info : Word) : (report e info s).framer = s.framer := rfl
@[simp] theorem report_assembler (e : Event) (info : Word) : (report e info s).assembler = s.assembler := rfl
@[simp] theorem report_draws (e : Event) (info : Word) : (report e info s).draws = s.draws := rfl
@[simp] theorem report_input (e : Event) (info : Word) : (report e info s).input = s.input := rfl
@[simp] theorem report_resp (e : Event) (info : Word) : (report e info s).resp = s.resp := rfl

/-! ### setResult -/

@[simp] theorem setResult_cfg (r : Result) (n : BitVec 9) : (setResult r n s).cfg = s.cfg := rfl
@[simp] theorem setResult_session (r : Result) (n : BitVec 9) : (setResult r n s).session = { s.session with res := r, reslen := n } :=
    rfl
@[simp] theorem setResult_events (r : Result) (n : BitVec 9) : (setResult r n s).events = s.events := rfl
@[simp] theorem setResult_corr (r : Result) (n : BitVec 9) : (setResult r n s).corr = s.corr := rfl
@[simp] theorem setResult_timing (r : Result) (n : BitVec 9) : (setResult r n s).timing = s.timing := rfl
@[simp] theorem setResult_framer (r : Result) (n : BitVec 9) : (setResult r n s).framer = s.framer := rfl
@[simp] theorem setResult_assembler (r : Result) (n : BitVec 9) : (setResult r n s).assembler = s.assembler := rfl
@[simp] theorem setResult_draws (r : Result) (n : BitVec 9) : (setResult r n s).draws = s.draws := rfl
@[simp] theorem setResult_input (r : Result) (n : BitVec 9) : (setResult r n s).input = s.input := rfl
@[simp] theorem setResult_resp (r : Result) (n : BitVec 9) : (setResult r n s).resp = s.resp := rfl

/-! ### setGate -/

@[simp] theorem setGate_cfg (b : Bool) (z : BitVec 10) : (setGate b z s).cfg = s.cfg := rfl
@[simp] theorem setGate_session (b : Bool) (z : BitVec 10) : (setGate b z s).session = { s.session with started := b, zrun := z } :=
    rfl
@[simp] theorem setGate_events (b : Bool) (z : BitVec 10) : (setGate b z s).events = s.events := rfl
@[simp] theorem setGate_corr (b : Bool) (z : BitVec 10) : (setGate b z s).corr = s.corr := rfl
@[simp] theorem setGate_timing (b : Bool) (z : BitVec 10) : (setGate b z s).timing = s.timing := rfl
@[simp] theorem setGate_framer (b : Bool) (z : BitVec 10) : (setGate b z s).framer = s.framer := rfl
@[simp] theorem setGate_assembler (b : Bool) (z : BitVec 10) : (setGate b z s).assembler = s.assembler := rfl
@[simp] theorem setGate_draws (b : Bool) (z : BitVec 10) : (setGate b z s).draws = s.draws := rfl
@[simp] theorem setGate_input (b : Bool) (z : BitVec 10) : (setGate b z s).input = s.input := rfl
@[simp] theorem setGate_resp (b : Bool) (z : BitVec 10) : (setGate b z s).resp = s.resp := rfl

/-! ### setPair -/

@[simp] theorem setPair_cfg (b : Bool) (v : Byte) : (setPair b v s).cfg = s.cfg := rfl
@[simp] theorem setPair_session (b : Bool) (v : Byte) : (setPair b v s).session = { s.session with pend := b, lobyte := v } :=
    rfl
@[simp] theorem setPair_events (b : Bool) (v : Byte) : (setPair b v s).events = s.events := rfl
@[simp] theorem setPair_corr (b : Bool) (v : Byte) : (setPair b v s).corr = s.corr := rfl
@[simp] theorem setPair_timing (b : Bool) (v : Byte) : (setPair b v s).timing = s.timing := rfl
@[simp] theorem setPair_framer (b : Bool) (v : Byte) : (setPair b v s).framer = s.framer := rfl
@[simp] theorem setPair_assembler (b : Bool) (v : Byte) : (setPair b v s).assembler = s.assembler := rfl
@[simp] theorem setPair_draws (b : Bool) (v : Byte) : (setPair b v s).draws = s.draws := rfl
@[simp] theorem setPair_input (b : Bool) (v : Byte) : (setPair b v s).input = s.input := rfl
@[simp] theorem setPair_resp (b : Bool) (v : Byte) : (setPair b v s).resp = s.resp := rfl

/-! ### onAssembler -/

@[simp] theorem onAssembler_cfg (f : Assembler → Assembler) : (onAssembler f s).cfg = s.cfg := rfl
@[simp] theorem onAssembler_session (f : Assembler → Assembler) : (onAssembler f s).session = s.session := rfl
@[simp] theorem onAssembler_events (f : Assembler → Assembler) : (onAssembler f s).events = s.events := rfl
@[simp] theorem onAssembler_corr (f : Assembler → Assembler) : (onAssembler f s).corr = s.corr := rfl
@[simp] theorem onAssembler_timing (f : Assembler → Assembler) : (onAssembler f s).timing = s.timing := rfl
@[simp] theorem onAssembler_framer (f : Assembler → Assembler) : (onAssembler f s).framer = s.framer := rfl
@[simp] theorem onAssembler_assembler (f : Assembler → Assembler) : (onAssembler f s).assembler = f s.assembler := rfl
@[simp] theorem onAssembler_draws (f : Assembler → Assembler) : (onAssembler f s).draws = s.draws := rfl
@[simp] theorem onAssembler_input (f : Assembler → Assembler) : (onAssembler f s).input = s.input := rfl
@[simp] theorem onAssembler_resp (f : Assembler → Assembler) : (onAssembler f s).resp = s.resp := rfl

/-! ### onFramer -/

@[simp] theorem onFramer_cfg (g : Framer → Framer) : (onFramer g s).cfg = s.cfg := rfl
@[simp] theorem onFramer_session (g : Framer → Framer) : (onFramer g s).session = s.session := rfl
@[simp] theorem onFramer_events (g : Framer → Framer) : (onFramer g s).events = s.events := rfl
@[simp] theorem onFramer_corr (g : Framer → Framer) : (onFramer g s).corr = s.corr := rfl
@[simp] theorem onFramer_timing (g : Framer → Framer) : (onFramer g s).timing = s.timing := rfl
@[simp] theorem onFramer_framer (g : Framer → Framer) : (onFramer g s).framer = g s.framer := rfl
@[simp] theorem onFramer_assembler (g : Framer → Framer) : (onFramer g s).assembler = s.assembler := rfl
@[simp] theorem onFramer_draws (g : Framer → Framer) : (onFramer g s).draws = s.draws := rfl
@[simp] theorem onFramer_input (g : Framer → Framer) : (onFramer g s).input = s.input := rfl
@[simp] theorem onFramer_resp (g : Framer → Framer) : (onFramer g s).resp = s.resp := rfl

/-! ### reportEvent -/

@[simp] theorem reportEvent_evcode (e : Event) (info : Word) (v : Events) : (reportEvent e info v).evcode = e := rfl
@[simp] theorem reportEvent_evsym (e : Event) (info : Word) (v : Events) : (reportEvent e info v).evsym = if e = .invalidNibble then info.extractLsb' 0 6 else v.evsym :=
    rfl
@[simp] theorem reportEvent_evcmd (e : Event) (info : Word) (v : Events) : (reportEvent e info v).evcmd = if e = .illegalCommand then info else v.evcmd :=
    rfl
@[simp] theorem reportEvent_errc (e : Event) (info : Word) (v : Events) : (reportEvent e info v).errc = if e = .illegalCommand then true else v.errc :=
    rfl

/-! ### resetAll -/

@[simp] theorem resetAll_cfg : (resetAll s).cfg = s.cfg := rfl
@[simp] theorem resetAll_session : (resetAll s).session = (State.initial s.cfg).session := rfl
@[simp] theorem resetAll_events : (resetAll s).events = (State.initial s.cfg).events := rfl
@[simp] theorem resetAll_corr : (resetAll s).corr = (State.initial s.cfg).corr := rfl
@[simp] theorem resetAll_timing : (resetAll s).timing = (State.initial s.cfg).timing := rfl
@[simp] theorem resetAll_framer : (resetAll s).framer = (State.initial s.cfg).framer := rfl
@[simp] theorem resetAll_assembler : (resetAll s).assembler = (State.initial s.cfg).assembler := rfl
@[simp] theorem resetAll_draws : (resetAll s).draws = s.draws := rfl
@[simp] theorem resetAll_input : (resetAll s).input = s.input := rfl
@[simp] theorem resetAll_resp : (resetAll s).resp = s.resp := rfl

end Sys2Proof.Machine
end

