-- ==== Sys2Proof/Laws/Ops.lean ====
section
/-! SUPPORT. One lemma per shared operation that says once what it can do. -/

namespace Sys2Proof.Machine

/-! ### Events, endings, rejection -/

/-- `terminate` writes RES, RESLEN and the event registers (60_exceptions.md R343). -/
theorem terminate_eq (e : Ending) (s : State) :
    terminate e s =
      { s with
        session := { s.session with res := endingResult e, reslen := endingLength s.cfg.capacity e }
        events := { s.events with evcode := endingEvent e } } := by
  cases e <;> rfl

/-- `reject` writes the event registers and answers 0 (46_host_commands.md R309). -/
theorem reject_eq (w : Word) (s : State) :
    reject w s =
      { s with
        events := { s.events with evcode := .illegalCommand, evcmd := w, errc := true }
        resp := s.resp ++ [0] } := rfl

/-- `complete` writes RES, RESLEN and the event registers (44_nibble_byte_assembler.md R249). -/
theorem complete_eq (s : State) :
    complete s =
      { s with
        session := { s.session with res := if s.assembler.invn then .degraded else .success
                                    reslen := s.assembler.bcnt }
        events := { s.events with evcode := .frameComplete } } := rfl

/-- `endOfStream` drops a pending byte and ends the session (45_session_driver.md R274). -/
theorem endOfStream_eq (s : State) :
    endOfStream s =
      { s with
        session := { s.session with res := .noResultExhausted, reslen := 0, pend := false }
        events := { s.events with evcode := .streamExhausted } } := rfl

/-! ### The frame of a cell event -/

/-- `t` differs from `s` at most in what a cell event may write: RES, RESLEN, EVCODE and EVSYM, the frame state
machine, the assembler and the count of draws. ERRC and EVCMD stay (60_exceptions.md R344). -/
structure CellFrame (s t : State) : Prop where
  cfg : t.cfg = s.cfg
  corr : t.corr = s.corr
  timing : t.timing = s.timing
  input : t.input = s.input
  resp : t.resp = s.resp
  started : t.session.started = s.session.started
  zrun : t.session.zrun = s.session.zrun
  pend : t.session.pend = s.session.pend
  lobyte : t.session.lobyte = s.session.lobyte
  errc : t.events.errc = s.events.errc
  evcmd : t.events.evcmd = s.events.evcmd

theorem CellFrame.refl (s : State) : CellFrame s s := ⟨rfl, rfl, rfl, rfl, rfl, rfl, rfl, rfl, rfl, rfl, rfl⟩

theorem CellFrame.trans {s t u : State} (h : CellFrame s t) (k : CellFrame t u) : CellFrame s u :=
  ⟨k.cfg.trans h.cfg, k.corr.trans h.corr, k.timing.trans h.timing, k.input.trans h.input, k.resp.trans h.resp,
    k.started.trans h.started, k.zrun.trans h.zrun, k.pend.trans h.pend, k.lobyte.trans h.lobyte, k.errc.trans h.errc,
    k.evcmd.trans h.evcmd⟩

theorem report_cellFrame {e : Event} (h : e ≠ .illegalCommand) (w : Word) (s : State) : CellFrame s (report e w s) :=
  ⟨rfl, rfl, rfl, rfl, rfl, rfl, rfl, rfl, rfl, if_neg h, if_neg h⟩

theorem onAssembler_cellFrame (f : Assembler → Assembler) (s : State) : CellFrame s (onAssembler f s) :=
  ⟨rfl, rfl, rfl, rfl, rfl, rfl, rfl, rfl, rfl, rfl, rfl⟩

theorem onFramer_cellFrame (g : Framer → Framer) (s : State) : CellFrame s (onFramer g s) :=
  ⟨rfl, rfl, rfl, rfl, rfl, rfl, rfl, rfl, rfl, rfl, rfl⟩

theorem terminate_cellFrame (e : Ending) (s : State) : CellFrame s (terminate e s) := by
  rw [terminate_eq]
  exact ⟨rfl, rfl, rfl, rfl, rfl, rfl, rfl, rfl, rfl, rfl, rfl⟩

theorem complete_cellFrame (s : State) : CellFrame s (complete s) :=
  ⟨rfl, rfl, rfl, rfl, rfl, rfl, rfl, rfl, rfl, rfl, rfl⟩

theorem noteInvalid_cellFrame (sym : BitVec 6) (s : State) : CellFrame s (noteInvalid sym s) :=
  ⟨rfl, rfl, rfl, rfl, rfl, rfl, rfl, rfl, rfl, rfl, rfl⟩

theorem lengthStep_cellFrame (s : State) : CellFrame s (lengthStep s) := by
  unfold lengthStep
  dsimp only
  split
  · exact onAssembler_cellFrame _ s
  · exact (onAssembler_cellFrame _ s).trans (report_cellFrame (by decide) _ _)

theorem completeIfDue_cellFrame (s : State) : CellFrame s (completeIfDue s) := by
  unfold completeIfDue
  split
  · exact complete_cellFrame s
  · exact CellFrame.refl s

theorem storeByte_cellFrame (v : Byte) (s : State) : CellFrame s (storeByte v s) := by
  unfold storeByte
  split
  · exact terminate_cellFrame _ s
  · refine (onAssembler_cellFrame (appendByte v) s).trans ?_
    dsimp only
    split
    · exact (lengthStep_cellFrame _).trans (completeIfDue_cellFrame _)
    · exact completeIfDue_cellFrame _

theorem nibbleIn_cellFrame (v : BitVec 4) (s : State) : CellFrame s (nibbleIn v s) := by
  unfold nibbleIn
  split
  · exact (onAssembler_cellFrame _ s).trans (storeByte_cellFrame _ _)
  · exact onAssembler_cellFrame _ s

theorem decodeSymbol_cellFrame (sym : BitVec 6) (s : State) : CellFrame s (decodeSymbol sym s) := by
  unfold decodeSymbol
  split
  · exact nibbleIn_cellFrame _ s
  · exact (noteInvalid_cellFrame sym s).trans (nibbleIn_cellFrame _ _)

theorem assembleBit_cellFrame (lb : BitVec 1) (s : State) : CellFrame s (assembleBit lb s) := by
  unfold assembleBit
  dsimp only
  split
  · exact (onAssembler_cellFrame _ s).trans (decodeSymbol_cellFrame _ _)
  · exact onAssembler_cellFrame _ s

theorem frameStep_cellFrame (bit : Bool) (s : State) : CellFrame s (frameStep bit s) := by
  unfold frameStep
  split
  · exact onFramer_cellFrame _ s
  · exact onFramer_cellFrame _ s
  · exact onFramer_cellFrame _ s
  · exact assembleBit_cellFrame _ s

/-- A cell event writes only RES, RESLEN, EVCODE, EVSYM, the frame state machine, the assembler and the draws
(43_frame_fsm.md R210). -/
theorem cellEvent_cellFrame (bit : Bool) (s : State) : CellFrame s (cellEvent bit s) :=
  (frameStep_cellFrame bit s).trans (onFramer_cellFrame _ _)

/-! ### What the stages can do -/

/-- The three outcomes of STORE_BYTE: no room, a byte that is not the second, the second byte
(44_nibble_byte_assembler.md R245). -/
theorem storeByte_cases (v : Byte) (s : State) :
    (s.cfg.capacity ≤ s.assembler.bcnt.toNat ∧ storeByte v s = terminate .bufferOverflow s) ∨
    (s.assembler.bcnt.toNat < s.cfg.capacity ∧ s.assembler.bcnt + 1 ≠ 2 ∧
      storeByte v s = completeIfDue (onAssembler (appendByte v) s)) ∨
    (s.assembler.bcnt.toNat < s.cfg.capacity ∧ s.assembler.bcnt + 1 = 2 ∧
      storeByte v s = completeIfDue (lengthStep (onAssembler (appendByte v) s))) := by
  unfold storeByte
  by_cases h : s.assembler.bcnt.toNat ≥ s.cfg.capacity
  · exact .inl ⟨h, if_pos h⟩
  · rw [if_neg h]
    have h' : s.assembler.bcnt.toNat < s.cfg.capacity := by omega
    have hb : (onAssembler (appendByte v) s).assembler.bcnt = s.assembler.bcnt + 1 := rfl
    dsimp only
    rw [hb]
    by_cases h2 : s.assembler.bcnt + 1 = 2
    · exact .inr (.inr ⟨h', h2, by rw [if_pos h2]⟩)
    · exact .inr (.inl ⟨h', h2, by rw [if_neg h2]⟩)

/-- The four outcomes of the silence gate (45_session_driver.md R271). -/
theorem silenceGate_cases (x : BitVec 16) (s : State) :
    (s.session.started = false ∧ x = 0 ∧ silenceGate x s = (s, false)) ∨
    (x ≠ 0 ∧ silenceGate x s = (setGate true 0 s, true)) ∨
    (s.session.started = true ∧ x = 0 ∧ (s.session.zrun + 1).toNat = silenceLimit ∧
      silenceGate x s = (terminate .silenceTimeout (setGate true (s.session.zrun + 1) s), false)) ∨
    (s.session.started = true ∧ x = 0 ∧ (s.session.zrun + 1).toNat ≠ silenceLimit ∧
      silenceGate x s = (setGate true (s.session.zrun + 1) s, true)) := by
  unfold silenceGate
  have hz : (setGate true (s.session.zrun + 1) s).session.zrun = s.session.zrun + 1 := rfl
  dsimp only
  rw [hz]
  by_cases hx : x = 0
  · cases hs : s.session.started
    · exact .inl ⟨rfl, hx, by rw [if_pos rfl, if_pos hx]⟩
    · rw [if_neg (by decide), if_pos hx]
      by_cases h : (s.session.zrun + 1).toNat = silenceLimit
      · exact .inr (.inr (.inl ⟨rfl, hx, h, by rw [if_pos h]⟩))
      · exact .inr (.inr (.inr ⟨rfl, hx, h, by rw [if_neg h]⟩))
  · refine .inr (.inl ⟨hx, ?_⟩)
    rw [if_neg hx, if_neg hx, ite_self]

/-- WRAP either leaves the state or subtracts 1.0 and runs one cell event (42_timing_recovery.md R193). -/
theorem wrap_cases (bit : Bool) (s : State) :
    (wraps s.timing = false ∧ wrap bit s = s) ∨
    (wraps s.timing = true ∧ wrap bit s = cellEvent bit { s with timing := wrapPhase s.timing }) := by
  unfold wrap
  cases h : wraps s.timing
  · exact .inl ⟨rfl, by simp⟩
  · exact .inr ⟨rfl, by simp⟩

/-- SAMPLE_STEP while running is the gate, then the pipeline if the sample passes (45_session_driver.md R270). -/
theorem sampleStep_running (x : BitVec 16) {s : State} (h : s.session.res = .running) :
    sampleStep x s =
      if (silenceGate x s).2 then pipeline x (silenceGate x s).1 else (silenceGate x s).1 := by
  simp [sampleStep, State.running, h]

/-! ### Every command answers a next state -/

/-- exec never stops: the spec gives the block no fault and this model leaves no command out. -/
theorem exec_next (i : Instr) (s : State) : ∃ t, exec i s = .next t := by
  cases i with
  | nop => exact ⟨_, rfl⟩
  | sample x =>
    change ∃ t, execSample x s = .next t
    unfold execSample; split
    · exact ⟨_, rfl⟩
    · split <;> exact ⟨_, rfl⟩
  | byte b =>
    change ∃ t, execByte b s = .next t
    unfold execByte; split <;> exact ⟨_, rfl⟩
  | eos =>
    change ∃ t, execEos s = .next t
    unfold execEos; split <;> exact ⟨_, rfl⟩
  | reset => exact ⟨_, rfl⟩
  | read a => exact ⟨_, rfl⟩

end Sys2Proof.Machine
end

