-- ==== Sys2Proof/Laws/PerInstr.lean ====
section
/-! SUPPORT. Statements about every command, one lemma per constructor of `Instr`. -/

namespace Sys2Proof.Laws

/-- OP of a packed word. -/
theorem opField_packWord (op : BitVec 4) (data : BitVec 16) : opField (packWord op data) = op := by
  unfold opField packWord
  ext i hi
  have : data.getLsbD (28 + i) = false := BitVec.getLsbD_of_ge _ _ (by omega)
  have h : 28 + i < 32 := by omega
  simp [this, h, BitVec.getLsbD_eq_getElem hi]

/-- RSV of a packed word. -/
theorem rsvField_packWord (op : BitVec 4) (data : BitVec 16) : rsvField (packWord op data) = 0 := by
  unfold rsvField packWord
  ext i hi
  have h : 16 + i < 28 := by omega
  simp [h]

/-- Bits of a packed word that lie in DATA. -/
theorem extractLsb'_packWord (op : BitVec 4) (data : BitVec 16) {lo n : Nat} (hn : lo + n ≤ 16) :
    (packWord op data).extractLsb' lo n = data.extractLsb' lo n := by
  unfold packWord
  ext i hi
  have h1 : lo + i < 32 := by omega
  have h2 : lo + i < 28 := by omega
  simp [h1, h2]

/-- Bits of DATA above a narrower operand are 0. -/
theorem extractLsb'_zeroExtend_above {m : Nat} (v : BitVec m) {lo n : Nat} (h : m ≤ lo) :
    (v.zeroExtend 16).extractLsb' lo n = 0 := by
  ext i hi
  have : v.getLsbD (lo + i) = false := BitVec.getLsbD_of_ge _ _ (by omega)
  simp [this]

/-- The encoder writes only well-formed words (30_encoding.md R113). -/
def EncodesWellFormed.Statement (i : Instr) : Prop := wellFormedWord (encode i) = true

theorem EncodesWellFormed.nop : EncodesWellFormed.Statement .nop := by
  unfold EncodesWellFormed.Statement; decide

theorem EncodesWellFormed.eos : EncodesWellFormed.Statement .eos := by
  unfold EncodesWellFormed.Statement; decide

theorem EncodesWellFormed.reset : EncodesWellFormed.Statement .reset := by
  unfold EncodesWellFormed.Statement; decide

theorem EncodesWellFormed.sample (s : BitVec 16) : EncodesWellFormed.Statement (.sample s) := by
  simp [EncodesWellFormed.Statement, wellFormedWord, encode, opField_packWord, rsvField_packWord]

theorem EncodesWellFormed.byte (b : Byte) : EncodesWellFormed.Statement (.byte b) := by
  have hhigh : byteHighField (encode (.byte b)) = 0 := by
    rw [byteHighField, encode, extractLsb'_packWord _ _ (by omega), extractLsb'_zeroExtend_above _ (by omega)]
  simp only [EncodesWellFormed.Statement, wellFormedWord, hhigh]
  simp [encode, opField_packWord, rsvField_packWord]

theorem EncodesWellFormed.read (a : BitVec 9) : EncodesWellFormed.Statement (.read a) := by
  have hhigh : addrHighField (encode (.read a)) = 0 := by
    rw [addrHighField, encode, extractLsb'_packWord _ _ (by omega), extractLsb'_zeroExtend_above _ (by omega)]
  simp only [EncodesWellFormed.Statement, wellFormedWord, hhigh]
  simp [encode, opField_packWord, rsvField_packWord]

end Sys2Proof.Laws
end

