-- ==== Sys2Proof/Tests/Slice0.lean ====
section
/-! SUPPORT. Tests against the words, examples and vectors of the spec, and, for each statement with hypotheses, a
state and operands that meet them (`test_witness_<Name>`). -/

namespace Sys2Proof.Tests

open Sys2Proof.Machine

/-! ### Helpers -/

/-- The state a command leaves. -/
def after (i : Instr) (s : State) : State :=
  match exec i s with
  | .next t => t
  | _ => s

/-- The state a step leaves. -/
def stepped (s : State) : State :=
  match step s with
  | .next t => t
  | _ => s

/-- The reset state with inputs to be served. -/
def fed (inputs : List Input) : State := { State.reset with input := inputs }

theorem exec_after (i : Instr) (s : State) : exec i s = .next (after i s) := by
  obtain ⟨t, h⟩ := exec_next i s
  unfold after
  rw [h]

theorem step_stepped {s : State} (h : s.cfg.legal = true) : step s = .next (stepped s) := by
  have ⟨t, ht⟩ : ∃ t, step s = .next t := by
    unfold step
    rw [if_pos h]
    unfold serveInput
    split
    · exact ⟨_, rfl⟩
    · unfold serveCommand
      split
      · exact exec_next _ _
      · exact ⟨_, rfl⟩
    · exact ⟨_, rfl⟩
  unfold stepped
  rw [ht]

/-- A frame state machine in Data, the sync word behind it. -/
def inData : State := { State.reset with framer := { State.reset.framer with fstate := .data, syncreg := 0xAB4D } }

/-- Three bytes 0x00, 0x90, 0x11 of an expected frame are in, and the high nibble of the next. -/
def midFrame : State :=
  { inData with
    session := { State.reset.session with started := true, zrun := 3 }
    timing := { dbit := false, phase := 0x3FEE666666666666 }
    assembler := { State.reset.assembler with
      nibreg := 0x29, nbc := 5, hinib := 0x2, hv := true, pay := [(1, 0x90), (2, 0x11)], bcnt := 3
      rawlen := 292, declen := 292, lenv := true } }

/-- 145 bytes of an expected frame are in, and all of the last one but a line bit. -/
def lastBit : State :=
  { midFrame with assembler := { midFrame.assembler with bcnt := 145 } }

/-- The same point of a block whose payload is full at three bytes. -/
def fullPayload : State := { midFrame with cfg := { Config.bell202 with capacity := 3 } }

/-! ### Words, from 30_encoding.md R115, R118 and 95_test_vectors.md 2.8 -/

theorem test_decode_nop : decode 0b00000000000000000000000000000000 = .ok .nop := by decide
theorem test_decode_sample : decode 0b00010000000000000100000000000000 = .ok (.sample 16384) := by decide
theorem test_decode_byte : decode 0b00100000000000000000000010010000 = .ok (.byte 0x90) := by decide
theorem test_decode_eos : decode 0b00110000000000000000000000000000 = .ok .eos := by decide
theorem test_decode_reset : decode 0b01000000000000000000000000000000 = .ok .reset := by decide
theorem test_decode_read : decode 0b01010000000000000000000111111111 = .ok (.read 0x1FF) := by decide

theorem test_decode_sample_negative : decode 0x10008000 = .ok (.sample (BitVec.ofInt 16 (-32768))) := by decide

theorem test_encode_words :
    [Instr.nop, .sample 0xFFFF, .byte 0x90, .eos, .reset, .read 0x001].map encode
      = [0x00000000, 0x1000FFFF, 0x20000090, 0x30000000, 0x40000000, 0x50000001] := by decide

theorem test_decode_refuses :
    [0x60000000, 0xF0000000, 0x00010000, 0x00000001, 0x20000100, 0x30000001, 0x40000001, 0x50000200,
      0x1FFF0000].map decode
      = [.error .reservedOp, .error .reservedOp, .error .rsvNotZero, .error .dataNotZero, .error .byteHighNotZero,
        .error .dataNotZero, .error .dataNotZero, .error .readHighNotZero, .error .rsvNotZero] := by decide

theorem test_wellFormedWord_refuses :
    [0x60000000, 0x00010000, 0x00000001, 0x20000100, 0x50000200].all (fun w => !wellFormedWord w) = true := by decide

theorem test_wellFormedWord_takes :
    [0x00000000, 0x1000FFFF, 0x200000FF, 0x30000000, 0x40000000, 0x500001FF].all wellFormedWord = true := by decide

theorem test_decodeTableWord : decodeTableWord 32 0x50000100 = some (.read 0x100) := by decide

theorem test_withFetchWord :
    step (State.reset.withFetchWord 32 0x30000000) = exec .eos State.reset := by
  have h : Config.bell202.legal = true := by decide +kernel
  exact (if_pos h).trans rfl

/-! ### Well-formed lines: each check refuses an ill-formed term (30_encoding.md R116, R117) -/

theorem test_wf_sample_low : (Line.sample (.dec (-32769))).wellFormed = false := by decide
theorem test_wf_sample_high : (Line.sample (.dec 32768)).wellFormed = false := by decide
theorem test_wf_sample_pattern : (Line.pcm (.hex 0x10000)).wellFormed = false := by decide
theorem test_wf_byte_high : (Line.byte (.dec 256)).wellFormed = false := by decide
theorem test_wf_byte_low : (Line.byte (.dec (-1))).wellFormed = false := by decide
theorem test_wf_read_addr : (Line.read (.addr (.hex 0x200))).wellFormed = false := by decide
theorem test_wf_read_pay : (Line.read (.pay (.dec 256))).wellFormed = false := by decide
theorem test_wf_zeros : (Line.zeros (.dec (-1))).wellFormed = false := by decide
theorem test_wf_pcmZeros : (Line.pcmZeros (.dec (-1))).wellFormed = false := by decide
theorem test_wf_samples_operand : (Line.samples [.dec 0, .dec 32768]).wellFormed = false := by decide
theorem test_wf_samples_none : (Line.samples []).wellFormed = false := by decide

theorem test_wf_edges :
    [Line.sample (.dec (-32768)), .sample (.dec 32767), .sample (.hex 0xFFFF), .byte (.dec 255),
      .read (.addr (.hex 0x1FF)), .read (.pay (.dec 255)), .zeros (.dec 0)].all Line.wellFormed = true := by decide

/-- The ranges of the pseudo-instructions' operands, in lines that expand. -/
theorem test_lines_expand :
    assembleLine (.samples [.dec (-1), .hex 0x8000]) = some [.sample 0xFFFF, .sample 0x8000]
      ∧ assembleLine (.samples [.dec 0, .dec 32768]) = none ∧ assembleLine (.samples []) = none
      ∧ assembleLine (.zeros (.dec 0)) = some [] ∧ assembleLine (.pcmZeros (.dec (-1))) = none := by decide

/-! ### Assembler text (30_encoding.md R116 to R118) -/

theorem test_text_commands :
    assembleText ["nop ; idle".toList, "Sample -1".toList, "BYTE 0x90".toList, "READ STATUS".toList,
        "READ PAY[0]".toList, "READ 0x1FF".toList, "".toList]
      = some [0x00000000, 0x1000FFFF, 0x20000090, 0x50000001, 0x50000100, 0x500001FF] := by decide +kernel

theorem test_text_pseudo :
    assembleText ["PCM 0x1234".toList, "ZEROS 2".toList, "PCMZEROS 1".toList, "SAMPLES 1, -1".toList,
        "RD EVCMD".toList]
      = some [0x20000034, 0x20000012, 0x10000000, 0x10000000, 0x20000000, 0x20000000, 0x10000001, 0x1000FFFF,
        0x50000010] := by decide +kernel

theorem test_text_refused :
    ["BYTE 256".toList, "SAMPLE 32768".toList, "READ PAY[256]".toList, "NOP 1".toList, "HALT".toList].all
      (fun t => assembleText [t] == none) = true := by decide +kernel

/-! ### Commands, from 46_host_commands.md and 95_test_vectors.md -/

theorem test_nop : after .nop midFrame = { midFrame with resp := [0] } := by decide

/-- 46_host_commands.md R302's example. -/
theorem test_sample :
    let t := after (.sample 16384) State.reset
    (statusWord t, t.corr.cur, ringRead t.corr 0, t.timing.phase, t.timing.dbit)
      = (0x00000100, 1, 0x3FE0000000000000, 0x3FC3333333333333, false) := by decide +kernel

/-- 95_test_vectors.md BP6: SAMPLE while a byte is pending. -/
theorem test_sample_rejected :
    let t := after (.sample 5) (after (.byte 0x12) State.reset)
    (statusWord t, t.events.evcmd, t.session.lobyte) = (0x00002200, 0x10000005, 0x12) := by decide

/-- 95_test_vectors.md BP1. -/
theorem test_byte_pair :
    let t := after (.byte 0x12) (after (.byte 0x34) State.reset)
    (t.session.lobyte, t.session.pend, ringRead t.corr 0) = (0x34, false, 0x3FC2340000000000) := by decide +kernel

/-- 95_test_vectors.md BP4. -/
theorem test_byte_pair_of_zeros :
    (after (.byte 0) (after (.byte 0) State.reset)).session.started = false := by decide

/-- 95_test_vectors.md BP7. -/
theorem test_eos :
    let t := after .eos (after (.byte 0x12) State.reset)
    (statusWord t, t.session.pend, t.events.evcode) = (0x80000003, false, .streamExhausted) := by decide

/-- 46_host_commands.md R308's example. -/
theorem test_reset :
    let t := after .reset midFrame
    (statusWord t, t.assembler.pay, t.cfg) = (0x00000000, [], midFrame.cfg) := by decide

/-- 95_test_vectors.md 2.8, READ right after reset. -/
theorem test_read_reset :
    [0x000, 0x001, 0x002, 0x011, 0x012, 0x014, 0x015, 0x016, 0x017, 0x018, 0x019, 0x01A, 0x0FF, 0x100, 0x1FF].map
        (fun a => readSpace a State.reset)
      = [0x46534B31, 0, 0, 6, 0x1F40, 0x4B0, 0x898, 0x4B0, 0x100, 0x33333333, 0x3FC33333, 0, 0, 0, 0] := by
  decide +kernel

/-- 10_state.md R60: NIBST and EVENT hold more than one field. -/
theorem test_read_fields :
    (readSpace 0x009 midFrame, readSpace 0x102 midFrame,
      readSpace 0x00F (report .invalidNibble 0x3F State.reset)) = (0x00020529, 0x11, 0x00003F03) := by decide

/-- 46_host_commands.md R309's example. -/
theorem test_illegal_word :
    let t := stepped (fed [.command 0x60000000])
    (statusWord t, t.events.evcode, t.events.evcmd, t.resp)
      = (0x00002000, .illegalCommand, 0x60000000, [0]) := by decide +kernel

/-- 95_test_vectors.md 2.8: EOS, then 0x70000000. -/
theorem test_illegal_word_terminal :
    statusWord (stepped { after .eos State.reset with input := [.command 0x70000000] }) = 0x80002003 := by
  decide +kernel

/-- 70_reset_and_hazards.md R380: `rst` gives no response word. -/
theorem test_rst : stepped { midFrame with input := [.rst] } = State.reset := by decide +kernel

/-! ### Arithmetic, correlator, detector and timing, from 95_test_vectors.md 2.1 to 2.4 -/

theorem test_normalize :
    [16384, BitVec.ofInt 16 (-32768), 32767, 1, BitVec.ofInt 16 (-1), 4660].map normalize
      = [0x3FE0000000000000, 0xBFF0000000000000, 0x3FEFFFC000000000, 0x3F00000000000000, 0xBF00000000000000,
        0x3FC2340000000000] := by decide +kernel

/-- The first AFTER row of 2.1: (−0.5, 0.0, 0.3535533905932738, −0.3535533905932738). -/
theorem test_correlate_after :
    correlate Config.bell202 0 (ringPush 6 0x3FE0000000000000 State.reset.corr)
      = ⟨0xBFE0000000000000, 0, 0x3FD6A09E667F3BCD, 0xBFD6A09E667F3BCD⟩ := by decide +kernel

/-- The first BEFORE row of 2.1: (0.0, 0.5, 0.0, 0.5), an exact tie. -/
theorem test_correlate_before :
    correlate { Config.bell202 with align := .before } 0 (ringPush 6 0x3FE0000000000000 State.reset.corr)
      = ⟨0, 0x3FE0000000000000, 0, 0x3FE0000000000000⟩ := by decide +kernel

/-- 2.2: an exact tie, one ulp below, and rounding decides. -/
theorem test_detect :
    [detect ⟨0x3FF0000000000000, 0, 0, 0x3FF0000000000000⟩, detect ⟨0x3FF0000000000000, 0, 0, 0x3FEFFFFFFFFFFFFF⟩,
      detect ⟨0xBFE0000000000000, 0, 0x3FD6A09E667F3BCD, 0xBFD6A09E667F3BCD⟩] = [false, true, false] := by
  decide +kernel

/-- 42_timing_recovery.md R193's example (T3), T4 (1.0 wraps one sample later) and T5 (the transition first). -/
theorem test_timing :
    let run := fun (phase : B64) (dbit bit : Bool) =>
      advance Config.bell202.phaseStep bit (transition bit { dbit := dbit, phase := phase })
    (wrapPhase (run 0x3FEE666666666666 false false)).phase = 0x3FB9999999999990
      ∧ (wrapPhase (run 0x3FF0000000000000 false false)).phase = 0x3FC3333333333330
      ∧ (run 0x3FECCCCCCCCCCCCD true false).phase = 0x3FE4CCCCCCCCCCCD
      ∧ wraps { dbit := false, phase := 0x3FF0000000000000 } = false := by decide +kernel

/-- Sums that cancel, round to even, stay subnormal and overflow (IEEE 754, 00_scope.md R11). -/
theorem test_fAdd :
    [fAdd 0x3FF0000000000000 0xBFF0000000000000, fAdd 0x8000000000000000 0x8000000000000000,
      fAdd 0x3FF0000000000000 0x3CA0000000000000, fAdd 0x3FF0000000000001 0x3CA0000000000000,
      fAdd 0x000FFFFFFFFFFFFF 0x0000000000000001, fAdd 0x7FEFFFFFFFFFFFFF 0x7FEFFFFFFFFFFFFF]
      = [0x0000000000000000, 0x8000000000000000, 0x3FF0000000000000, 0x3FF0000000000002, 0x0010000000000000,
        0x7FF0000000000000] := by decide +kernel

/-- The generator of the default tables gives the table 40_correlator.md R152 prints. -/
theorem test_refRomOf : refRomOf 1200 2200 8000 6 = RefRom.bell202 := by decide +kernel

/-- N and STEP of the catalogue (00_scope.md R9). -/
theorem test_catalogue :
    [profileV23Mode1, profileV23Mode2, profileV23Backward].map (fun c => (c.window, c.phaseStep))
      = [(6, 0x3FB3333333333333), (6, 0x3FC3333333333333), (20, 0x3F83333333333333)] := by decide +kernel

/-- Each is a legal configuration (00_scope.md R8). -/
theorem test_catalogue_legal :
    [Config.bell202, profileV23Mode1, profileV23Mode2, profileV23Backward].all Config.legal = true := by
  decide +kernel

/-- 00_scope.md R8: DOWNSAMPLING 2, equal tones, BAUD above the rate and CAPACITY 257 are refused. -/
theorem test_illegal_configurations :
    [{ Config.bell202 with downsampling := 2 }, { Config.bell202 with freqSpace := 1200 },
      { Config.bell202 with baud := 8001 }, { Config.bell202 with capacity := 257 }].all (fun c => !c.legal)
      = true := by decide +kernel

/-! ### Cells, from 95_test_vectors.md 2.5 and 2.6 -/

/-- F5: the training pattern runs on into Sync, then the sync word. -/
theorem test_sync_word :
    let t := runCells (alternatingCells 39 true ++ valueCells 16 0xAB4D) State.reset
    (t.framer.fstate, t.framer.syncreg, t.assembler) = (.data, 0xAB4D, State.reset.assembler) := by decide +kernel

/-- F6: the forced CarrierSignal state. -/
theorem test_carrier :
    let s : State := { State.reset with framer := { State.reset.framer with fstate := .carrierSignal } }
    (runCells (List.replicate 15 true) s).framer.cnt = 15
      ∧ (runCells (List.replicate 16 true) s).framer.fstate = .data := by decide

/-- A2: symbols 0x12 and 0x13 as cells, M S M M S M and M S M M S S. -/
theorem test_two_symbols :
    let t := runCells [true, false, true, true, false, true, true, false, true, true, false, false] inData
    (Memory.read t.assembler.pay 0, t.assembler.bcnt, t.assembler.hv) = (0x01, 1, false) := by decide

/-- A4: two invalid symbols store two free nibbles. -/
theorem test_invalid_symbols :
    let t := runCells (List.replicate 6 true ++ List.replicate 6 false) inData
    t.assembler.invcnt = 2 ∧ t.events.evsym = 0x3F ∧ t.assembler.bcnt = 1 ∧ t.draws = 2
      ∧ t.assembler.hinib = Config.draw4 0 := ⟨rfl, rfl, rfl, rfl, rfl⟩

/-- L1, L4 and L5. -/
theorem test_length :
    [[0x00, 0x90], [0xFF, 0xFF], [0x00, 0x00]].map (fun bytes =>
        let t := runCells (frameCells bytes) inData
        (t.assembler.rawlen, t.assembler.declen, t.assembler.lenco, t.events.evcode))
      = [(292, 292, false, .none), (131074, 288, true, .malformedLengthField),
        (4, 288, true, .malformedLengthField)] := by decide +kernel

/-- O2. -/
theorem test_overflow :
    let t := runCells (frameCells [0x00, 0x90, 0x11]) { inData with cfg := { Config.bell202 with capacity := 2 } }
    (t.session.res, t.session.reslen, t.assembler.pay, t.assembler.lenv, t.assembler.declen)
      = (.overflow, 2, [(1, 0x90)], true, 292) := by decide +kernel

/-! ### Memory -/

theorem test_memory_canonical :
    Memory.write (Memory.write (Memory.write [] 3 0x11) 1 0x22) 3 0x00 = [(1, 0x22)] := by decide

theorem test_memory_wf_refuses :
    ([[(1, 0x00)], [(2, 0x01), (1, 0x01)], [(1, 0x01), (1, 0x02)]] : List Memory).all (fun m => !m.wf) = true := by
  decide

/-! ### Witnesses: for each statement with hypotheses, what meets them all; for each clause, at its edges -/

theorem bell202_legal : Config.bell202.legal = true := by decide +kernel

theorem test_witness_EncodeOfDecodeIsIdentity : decode 0x1000FFFF = .ok (.sample 0xFFFF) := by decide

theorem test_witness_WellFormedWordMatchesOneEncodingRow :
    decode 0x500001FF = .ok (.read 0x1FF) ∧ decode 0x50000200 = .error .readHighNotZero := by decide

theorem test_witness_StepRunsDecodedCommand :
    (fed [.command 0x500001FF, .rst]).cfg.legal = true
      ∧ (fed [.command 0x500001FF, .rst]).input = .command 0x500001FF :: [.rst]
      ∧ decode 0x500001FF = .ok (.read 0x1FF) ∧ (fed []).cfg.legal = true ∧ (fed []).input = [] :=
  ⟨bell202_legal, rfl, by decide, bell202_legal, rfl⟩

/-- Each clause: a word that is not well-formed, and one well-formed word of each OP. -/
theorem test_witness_StepDispatchesByOpcode :
    (∀ w, (fed [.command w]).cfg.legal = true ∧ (fed [.command w]).input = .command w :: [])
      ∧ wellFormedWord 0x60000000 = false
      ∧ ∀ p ∈ [((0x00000000 : Word), 0), (0x1000FFFF, 1), (0x200000FF, 2), (0x30000000, 3), (0x40000000, 4),
          (0x500001FF, 5)], wellFormedWord p.1 = true ∧ (p.1.extractLsb' 28 4).toNat = p.2 :=
  ⟨fun _ => ⟨bell202_legal, rfl⟩, by decide, by decide⟩

theorem test_witness_ResetRestoresEveryElement :
    ({ midFrame with input := [.rst] } : State).cfg.legal = true
      ∧ ({ midFrame with input := [.rst] } : State).input = .rst :: [] := ⟨bell202_legal, rfl⟩

theorem test_witness_EveryCommandGetsOneResponse :
    (fed [.command 0x50000000]).cfg.legal = true ∧ (fed [.command 0x50000000]).input = .command 0x50000000 :: []
      ∧ decode 0x50000000 = .ok (.read 0x000)
      ∧ (fed [.command 0x60000000]).input = .command 0x60000000 :: []
      ∧ decode 0x60000000 = .error .reservedOp := ⟨bell202_legal, rfl, by decide, rfl, by decide⟩

theorem test_witness_ReadAnswersRegisterMap :
    (0x000 : BitVec 9).toNat ≤ 0x0FF ∧ (0x0FF : BitVec 9).toNat ≤ 0x0FF := by decide

/-- A reset state is sized: every address from BCNT on reads 0x00. -/
theorem reset_arraysSized : State.reset.ArraysSized :=
  ⟨bell202_legal, by decide, by decide, rfl, by decide, fun _ _ => rfl⟩

theorem midFrame_blank (a : Nat) (h : 3 ≤ a) : Memory.read midFrame.assembler.pay a = 0x00 := by
  have h1 : a ≠ 1 := by omega
  have h2 : a ≠ 2 := by omega
  simp [midFrame, Memory.read, h1, h2, Memory.blankByte]

theorem midFrame_arraysSized : midFrame.ArraysSized :=
  ⟨bell202_legal, by decide, by decide, by decide, by decide, midFrame_blank⟩

/-- Each clause: the first address and the last within CAPACITY, the first beyond it, the first not yet assembled. -/
theorem test_witness_ReadAnswersPayloadWindow :
    0x100 ≤ (0x100 : BitVec 9).toNat ∧ (0x1FF : BitVec 9).toNat - 0x100 < midFrame.cfg.capacity
      ∧ fullPayload.cfg.capacity ≤ (0x103 : BitVec 9).toNat - 0x100
      ∧ midFrame.ArraysSized ∧ midFrame.assembler.bcnt.toNat ≤ (0x103 : BitVec 9).toNat - 0x100 :=
  ⟨by decide, by decide, by decide, midFrame_arraysSized, by decide⟩

theorem test_witness_EosEndsRunningSession :
    midFrame.session.res = .running ∧ (after .eos State.reset).session.res ≠ .running := by decide

/-- A frame with the first byte of a pair latched. -/
def halfPair : State := { midFrame with session := { midFrame.session with pend := true, lobyte := 0x34 } }

/-- A session that has ended. -/
def ended : State :=
  { midFrame with session := { midFrame.session with res := .noResultExhausted } }

theorem test_witness_ByteCommandPairsBytes :
    ended.session.res ≠ .running ∧ (midFrame.session.res = .running ∧ midFrame.session.pend = false)
      ∧ (halfPair.session.res = .running ∧ halfPair.session.pend = true) := by decide

theorem test_witness_InputTurnedAway :
    ended.session.res ≠ .running ∧ halfPair.session.res = .running ∧ halfPair.session.pend = true := by decide

/-- 999 interior zeros are in. -/
def nearSilence : State := { midFrame with session := { midFrame.session with zrun := 999 } }

theorem test_witness_SilenceGateDropsZeros :
    (State.reset.session.res = .running ∧ State.reset.session.pend = false ∧ State.reset.session.started = false)
      ∧ (nearSilence.session.res = .running ∧ nearSilence.session.pend = false
        ∧ nearSilence.session.started = true ∧ nearSilence.session.zrun = 999) := by decide

/-- The first sample of a session, and an interior zero: the 999th, after a phase that does not wrap. -/
theorem test_witness_SampleWithoutCellEvent :
    (State.reset.session.res = .running ∧ State.reset.session.pend = false ∧ gatePasses 16384 State.reset
      ∧ fGt (phaseBeforeWrap 16384 State.reset) 0x3FF0000000000000 = false)
    ∧ (let s : State := { midFrame with session := { midFrame.session with zrun := 998 }
                                        timing := { dbit := false, phase := 0 } }
      s.session.res = .running ∧ s.session.pend = false ∧ gatePasses 0 s
        ∧ fGt (phaseBeforeWrap 0 s) 0x3FF0000000000000 = false) :=
  ⟨⟨rfl, rfl, .inl (by decide), by decide +kernel⟩, rfl, rfl, .inr ⟨rfl, by decide⟩, by decide +kernel⟩

theorem test_witness_SampleWithCellEvent :
    midFrame.session.res = .running ∧ midFrame.session.pend = false ∧ gatePasses 16384 midFrame
      ∧ fGt (phaseBeforeWrap 16384 midFrame) 0x3FF0000000000000 = true :=
  ⟨rfl, rfl, .inl (by decide), by decide +kernel⟩

/-- The cursor at either end of the ring. -/
theorem test_witness_RingTakesSampleAtCursor :
    State.reset.corr.cur < State.reset.corr.ring.length ∧ (1 : Nat) ≠ State.reset.corr.cur
      ∧ ({ State.reset.corr with cur := 5 } : Correlator).cur < State.reset.corr.ring.length := by decide

theorem test_witness_NormalizeIsExact : (0 : BitVec 16) = 0 := rfl

theorem test_witness_SumsAccumulateInTableOrder :
    Config.bell202.align = .after ∧ 0 < Config.bell202.window ∧ 5 < Config.bell202.window := by decide

theorem test_witness_DetectorIsStrictComparison :
    fAdd (fMul 0x3FF0000000000000 0x3FF0000000000000) (fMul 0 0)
      = fAdd (fMul 0 0) (fMul 0x3FF0000000000000 0x3FF0000000000000) := by decide +kernel

/-- A sum that rounds to even, and the largest finite number plus zero. -/
theorem test_witness_AddIsNearestEven :
    (fIsFinite 0x3FF0000000000001 = true ∧ fIsFinite 0x3CA0000000000000 = true
      ∧ fIsFinite (fAdd 0x3FF0000000000001 0x3CA0000000000000) = true)
    ∧ (fIsFinite 0x7FEFFFFFFFFFFFFF = true ∧ fIsFinite (fAdd 0x7FEFFFFFFFFFFFFF 0) = true) := by decide +kernel

/-- A product that is rounded, and one that underflows to a subnormal. -/
theorem test_witness_MulIsNearestEven :
    (fIsFinite 0x3FE9E3779B97F4A8 = true
      ∧ fIsFinite (fMul 0x3FE9E3779B97F4A8 0x3FE9E3779B97F4A8) = true)
    ∧ (fIsFinite 0x0010000000000000 = true ∧ fIsFinite 0x3FE8000000000000 = true
      ∧ fIsFinite (fMul 0x0010000000000000 0x3FE8000000000000) = true) := by decide +kernel

/-- 1 / 3, and a negative divisor. -/
theorem test_witness_DivIsNearestEven :
    (fIsFinite 0x3FF0000000000000 = true ∧ fIsFinite 0x4008000000000000 = true ∧ fValue 0x4008000000000000 ≠ 0
      ∧ fIsFinite (fDiv 0x3FF0000000000000 0x4008000000000000) = true)
    ∧ (fIsFinite 0xC008000000000000 = true ∧ fValue 0xC008000000000000 ≠ 0
      ∧ fIsFinite (fDiv 0x3FF0000000000000 0xC008000000000000) = true) := by decide +kernel

theorem test_witness_GreaterIsNumericOrder :
    fIsFinite 0x0000000000000000 = true ∧ fIsFinite 0x8000000000000001 = true := by decide

/-- A phase just past 1.0, and 2.0 itself. -/
theorem test_witness_WrapSubtractionIsExact :
    (fIsFinite 0x3FF0000000000001 = true ∧ fGt 0x3FF0000000000001 0x3FF0000000000000 = true
      ∧ fGt 0x3FF0000000000001 0x4000000000000000 = false)
    ∧ (fIsFinite 0x4000000000000000 = true ∧ fGt 0x4000000000000000 0x3FF0000000000000 = true
      ∧ fGt 0x4000000000000000 0x4000000000000000 = false) := by decide +kernel

theorem test_witness_BellTablesAreNearestSines : (0 : Nat) < 6 ∧ (5 : Nat) < 6 := by decide

/-- A seizing framer with a count. -/
def seizing (cnt : BitVec 5) : State :=
  { State.reset with framer := { State.reset.framer with cnt := cnt, cbit := true } }

/-- The forced CarrierSignal state of 95_test_vectors.md F6. -/
def carrier (cnt : BitVec 5) : State :=
  { State.reset with framer := { State.reset.framer with fstate := .carrierSignal, cnt := cnt } }

/-- Every branch: counts below and at each limit. -/
theorem test_witness_CountingCellRules :
    (∀ c ∈ [(0 : BitVec 5), 29, 30], (seizing c).framer.cnt.toNat ≤ 30 ∧ (seizing c).framer.fstate = .channelSeize)
      ∧ ∀ c ∈ [(0 : BitVec 5), 14, 15, 30],
        (carrier c).framer.cnt.toNat ≤ 30 ∧ (carrier c).framer.fstate = .carrierSignal := by decide

/-- 43_frame_fsm.md R213's example: SYNCREG = 0x55A6, bit = false. -/
theorem test_witness_SyncCellRule :
    let s : State := { State.reset with framer := { State.reset.framer with fstate := .sync, syncreg := 0x55A6 } }
    s.framer.fstate = .sync ∧ (s.framer.syncreg.extractLsb' 0 15 ++ (1#1) : BitVec 16) = 0xAB4D := by decide

/-- The counts 0 and 30, and a repeated bit after each. -/
theorem test_witness_SeizureRunLength :
    State.reset.framer.fstate = .channelSeize ∧ State.reset.framer.cnt = 0
      ∧ ∀ n ∈ [0, 30], n ≤ 30
        ∧ (runCells (alternatingCells n true) State.reset).framer.cbit = false := by decide

theorem test_witness_SyncWordNeedsSixteenCells :
    let s : State := { State.reset with framer := { State.reset.framer with fstate := .sync } }
    s.framer.fstate = .sync ∧ s.framer.syncreg = 0 ∧ (List.replicate 15 true).length ≤ 15
      ∧ (valueCells 16 0xAB4D).length = 16 := by decide

theorem test_witness_FrameStateMovesForward :
    step { midFrame with input := [.rst] } = .next (stepped { midFrame with input := [.rst] })
      ∧ ({ midFrame with input := [.rst] } : State).resetIsNext
      ∧ step (fed [.command 0]) = .next (stepped (fed [.command 0])) ∧ ¬ (fed [.command 0]).resetIsNext :=
  ⟨step_stepped bell202_legal, .inl rfl, step_stepped bell202_legal,
    by simp [State.resetIsNext, fed]⟩

/-- 44_nibble_byte_assembler.md R240's example, before its cell: NIBREG = 0x09, NBC = 4. -/
def midSymbol : State := { inData with assembler := { inData.assembler with nibreg := 0x09, nbc := 4 } }

/-- A5 of 95_test_vectors.md 2.6. -/
theorem test_mid_symbol :
    let t := cellEvent true midSymbol
    (t.assembler.nibreg, t.assembler.nbc, t.assembler.hv, t.framer.cbit) = (0x12, 5, false, true) := by decide

/-- Both clauses: a cell after four line bits of any symbol, and the first symbol of a byte. -/
theorem test_witness_SymbolCellsMakeOneNibble :
    (midSymbol.framer.fstate = .data ∧ midSymbol.assembler.nbc.toNat ≤ 4) ∧
    (0 : Nat) < 16 ∧ (15 : Nat) < 16 ∧ inData.framer.fstate = .data ∧ inData.assembler.nbc = 0
      ∧ inData.assembler.hv = false := by decide

/-- Five line bits 0 of a byte's first symbol are in. -/
def zeroSymbol : State := { inData with assembler := { inData.assembler with nibreg := 0, nbc := 5 } }

/-- Five line bits 1 of a byte's second symbol are in. -/
def onesSymbol : State := { midFrame with assembler := { midFrame.assembler with nibreg := 0x1F } }

/-- The symbol 0x00 as the first of a byte and the symbol 0x3F as the second. -/
theorem test_witness_InvalidSymbolTakesFreeNibble :
    (zeroSymbol.framer.fstate = .data ∧ zeroSymbol.assembler.nbc = 5 ∧ zeroSymbol.assembler.hv = false
      ∧ ∀ v, v < 16 → nibbleSymbol v ≠ (zeroSymbol.assembler.nibreg.extractLsb' 0 5 ++ 0#1 : BitVec 6).toNat)
    ∧ (onesSymbol.framer.fstate = .data ∧ onesSymbol.assembler.nbc = 5 ∧ onesSymbol.assembler.hv = true
      ∧ ∀ v, v < 16 → nibbleSymbol v ≠ (onesSymbol.assembler.nibreg.extractLsb' 0 5 ++ 1#1 : BitVec 6).toNat) := by
  decide

theorem test_witness_ByteCellsStoreOneByte :
    inData.framer.fstate = .data ∧ inData.assembler.nbc = 0 ∧ inData.assembler.hv = false := by decide

/-- The first byte, the last there is room for, and the first there is none for. -/
theorem test_witness_StoreByteStoresOrOverflows :
    (∀ n ∈ [(0 : BitVec 9), 3, 255],
      let s : State := { midFrame with assembler := { midFrame.assembler with bcnt := n } }
      s.assembler.pay.wf = true ∧ s.assembler.bcnt.toNat < s.cfg.capacity ∧ s.assembler.bcnt ≠ 1
        ∧ ¬ (s.assembler.lenv = true ∧ (s.assembler.bcnt + 1).toNat = s.assembler.declen.toNat / 2))
    ∧ fullPayload.assembler.pay.wf = true ∧ fullPayload.cfg.capacity ≤ fullPayload.assembler.bcnt.toNat := by decide

/-- Both branches at the least CAPACITY: the header 0x00, 0x90, and another. -/
theorem test_witness_SecondByteFixesLength :
    ∀ m ∈ [([] : Memory), [(0, 0xFF)]],
      let s : State := { inData with
        cfg := { Config.bell202 with capacity := 2 }, assembler := { inData.assembler with pay := m, bcnt := 1 } }
      s.assembler.pay.wf = true ∧ s.assembler.bcnt = 1 ∧ 2 ≤ s.cfg.capacity := by decide

/-- One byte short of a frame of `declen` nibbles. -/
def byteShort (bcnt declen : BitVec 9) (invn : Bool) : State :=
  { midFrame with assembler := { midFrame.assembler with bcnt := bcnt, declen := declen, invn := invn } }

/-- The 146th byte of an expected frame, and the 144th of a coerced one after an invalid symbol. -/
theorem test_witness_LastByteCompletesFrame :
    ((byteShort 145 292 false).assembler.pay.wf = true
      ∧ (byteShort 145 292 false).assembler.bcnt.toNat < (byteShort 145 292 false).cfg.capacity
      ∧ (byteShort 145 292 false).assembler.bcnt ≠ 1 ∧ (byteShort 145 292 false).assembler.lenv = true
      ∧ ((byteShort 145 292 false).assembler.bcnt + 1).toNat
          = (byteShort 145 292 false).assembler.declen.toNat / 2)
    ∧ ((byteShort 143 288 true).assembler.bcnt.toNat < (byteShort 143 288 true).cfg.capacity
      ∧ ((byteShort 143 288 true).assembler.bcnt + 1).toNat
          = (byteShort 143 288 true).assembler.declen.toNat / 2) := by decide

/-- A frame about to begin in a block with this CAPACITY. -/
def frameAhead (capacity : Nat) : State := { inData with cfg := { Config.bell202 with capacity := capacity } }

/-- Each header at the least CAPACITY that holds its frame: 146 bytes, and the 144 of a coerced one. -/
theorem test_witness_FrameDecodesToPayload :
    ((frameAhead 146).framer.fstate = .data ∧ (frameAhead 146).session.res = .running
      ∧ (frameAhead 146).assembler = (State.initial (frameAhead 146).cfg).assembler
      ∧ (List.replicate 144 (0x5A : Byte)).length = (if (0x00 : Byte) = 0x00 ∧ (0x90 : Byte) = 0x90 then 144 else 142)
      ∧ (List.replicate 144 (0x5A : Byte)).length + 2 ≤ (frameAhead 146).cfg.capacity)
    ∧ ((frameAhead 144).framer.fstate = .data ∧ (frameAhead 144).session.res = .running
      ∧ (frameAhead 144).assembler = (State.initial (frameAhead 144).cfg).assembler
      ∧ (List.replicate 142 (0x5A : Byte)).length = (if (0x01 : Byte) = 0x00 ∧ (0x00 : Byte) = 0x90 then 144 else 142)
      ∧ (List.replicate 142 (0x5A : Byte)).length + 2 ≤ (frameAhead 144).cfg.capacity) :=
  ⟨⟨rfl, rfl, rfl, by simp, by simp [frameAhead]⟩, rfl, rfl, rfl, by simp, by simp [frameAhead]⟩

/-- The 144th byte of a coerced frame fits a CAPACITY of 144 (44_nibble_byte_assembler.md R247). -/
theorem test_coerced_frame_fits :
    let t := storeByte 0x5A { byteShort 143 288 false with cfg := { Config.bell202 with capacity := 144 } }
    (t.session.res, t.session.reslen, t.assembler.bcnt) = (.success, 144, 144) := by decide

/-! Invariants: a frame under way meets them all, and the next step is a sample with a cell event. -/

/-- midFrame with a sample to come. -/
def midFrameFed : State := { midFrame with input := [.command 0x10004000] }

theorem midFrameFed_step : step midFrameFed = .next (stepped midFrameFed) := step_stepped bell202_legal

theorem midFrameFed_arraysSized : midFrameFed.ArraysSized :=
  ⟨bell202_legal, by decide, by decide, by decide, by decide, midFrame_blank⟩

theorem midFrameFed_frameSane : midFrameFed.FrameSane :=
  ⟨by decide, by decide, by decide, by decide, by decide, by decide, by decide⟩

theorem midFrameFed_assemblerSane : midFrameFed.AssemblerSane :=
  ⟨by decide, by decide, by decide, by decide, by decide, by decide, by decide, by decide, by decide⟩

theorem midFrameFed_outcomeSane : midFrameFed.OutcomeSane :=
  ⟨by decide, by decide, by decide, by decide, by decide, by decide, by decide, by decide, by decide, by decide⟩

theorem test_witness_StepKeepsArraysSized :
    midFrameFed.ArraysSized ∧ step midFrameFed = .next (stepped midFrameFed) :=
  ⟨midFrameFed_arraysSized, midFrameFed_step⟩

theorem test_witness_StepKeepsFrameSane :
    midFrameFed.FrameSane ∧ step midFrameFed = .next (stepped midFrameFed) :=
  ⟨midFrameFed_frameSane, midFrameFed_step⟩

theorem test_witness_StepKeepsAssemblerSane :
    midFrameFed.ArraysSized ∧ midFrameFed.FrameSane ∧ midFrameFed.AssemblerSane
      ∧ step midFrameFed = .next (stepped midFrameFed) :=
  ⟨midFrameFed_arraysSized, midFrameFed_frameSane, midFrameFed_assemblerSane, midFrameFed_step⟩

theorem test_witness_StepKeepsOutcomeSane :
    midFrameFed.ArraysSized ∧ midFrameFed.FrameSane ∧ midFrameFed.AssemblerSane ∧ midFrameFed.OutcomeSane
      ∧ step midFrameFed = .next (stepped midFrameFed) :=
  ⟨midFrameFed_arraysSized, midFrameFed_frameSane, midFrameFed_assemblerSane, midFrameFed_outcomeSane,
    midFrameFed_step⟩

theorem test_witness_StepKeepsPhaseInRange :
    midFrameFed.PhaseInRange ∧ step midFrameFed = .next (stepped midFrameFed) :=
  ⟨by unfold State.PhaseInRange; decide, midFrameFed_step⟩

theorem test_witness_InitialStateMeetsInvariants : profileV23Backward.legal = true := by decide +kernel

/-- Power-on, a command sent, and the step that serves it. -/
theorem test_witness_ReachableStatesMeetInvariants :
    Config.bell202.legal = true ∧ Reachable Config.bell202 (stepped (fed [.command 0x10004000])) :=
  ⟨bell202_legal, .step _ _ (.send _ (.command 0x10004000) .powerOn) (step_stepped bell202_legal)⟩

/-- A sample is due, and the phase is p. -/
def atPhase (p : B64) : State := { midFrame with timing := { dbit := false, phase := p } }

/-- From the phase +0.0 of reset, and from the phase 1.0. -/
theorem test_witness_PhasePositiveAfterSample :
    (∀ p, (atPhase p).cfg.legal = true ∧ (atPhase p).session.res = .running ∧ (atPhase p).session.pend = false
      ∧ gatePasses 16384 (atPhase p) ∧ exec (.sample 16384) (atPhase p) = .next (after (.sample 16384) (atPhase p)))
    ∧ (atPhase 0x0000000000000000).PhaseInRange ∧ (atPhase 0x3FF0000000000000).PhaseInRange :=
  ⟨fun _ => ⟨bell202_legal, rfl, rfl, .inl (by decide), exec_after _ _⟩,
    by unfold State.PhaseInRange; decide, by unfold State.PhaseInRange; decide⟩

theorem test_witness_ConfigurationNeverChanges : step midFrameFed = .next (stepped midFrameFed) := midFrameFed_step

/-- A sample that is ignored, and an illegal word that is recorded. -/
theorem test_witness_TerminalStateIsLeftOnlyByReset :
    ∀ w : Word, w ≠ 0x40000000 →
      let s : State := { ended with input := [.command w] }
      s.session.res ≠ .running ∧ ¬ s.resetIsNext ∧ step s = .next (stepped s) := by
  intro w hw
  refine ⟨?_, ?_, step_stepped bell202_legal⟩
  · intro h
    cases h
  · rintro (h | h)
    · cases h
    · exact hw (by injection h with h; injection h)

/-- Each of the four ways. -/
theorem test_witness_SessionEndsInFourWays :
    ∀ p ∈ [({ midFrame with input := [.command 0x30000000] }, Result.noResultExhausted),
        ({ nearSilence with input := [.command 0x10000000] }, .noResultSilence),
        ({ lastBit with input := [.command 0x10004000] }, .success),
        ({ fullPayload with input := [.command 0x10004000] }, .overflow)],
      p.1.session.res = .running ∧ (stepped p.1).session.res = p.2 ∧ p.1.cfg.legal = true := by decide +kernel

theorem test_witness_SessionEndsInFourWays_step :
    step { fullPayload with input := [.command 0x10004000] }
      = .next (stepped { fullPayload with input := [.command 0x10004000] }) :=
  step_stepped (by decide +kernel)

/-- Every run that is not yet at its end. -/
theorem test_witness_SilenceRunEndsSession :
    ∀ z : BitVec 10, z.toNat < 1000 →
      let s : State := { midFrame with
        session := { midFrame.session with zrun := z }, input := zeroSamples (1000 - z.toNat) ++ [.rst] }
      s.cfg.legal = true ∧ s.session.res = .running ∧ s.session.pend = false ∧ s.session.started = true
        ∧ s.session.zrun.toNat < 1000 ∧ s.input = zeroSamples (1000 - s.session.zrun.toNat) ++ [.rst] :=
  fun _ hz => ⟨bell202_legal, rfl, rfl, rfl, hz, rfl⟩

/-- No zero, and two, before the end of the stream. -/
theorem test_witness_LeadingZerosAreFree :
    ∀ n ∈ [0, 2],
      let s := fed (zeroSamples n ++ [.command 0x30000000])
      s.cfg.legal = true ∧ s.session.res = .running ∧ s.session.pend = false ∧ s.session.started = false
        ∧ s.input = zeroSamples n ++ [.command 0x30000000] :=
  fun _ _ => ⟨bell202_legal, rfl, rfl, rfl, rfl⟩

theorem test_witness_BytePairEqualsSample :
    midFrame.session.res = .running ∧ midFrame.session.pend = false := by decide

/-- Two states that differ downstream of the timing recovery. -/
theorem test_witness_FrontEndIgnoresBackEnd :
    let t : State := { midFrame with
      framer := { midFrame.framer with fstate := .sync, syncreg := 0 }, assembler := State.reset.assembler, draws := 7 }
    midFrame.cfg = t.cfg ∧ midFrame.corr = t.corr ∧ midFrame.timing = t.timing
      ∧ midFrame.session.started = t.session.started ∧ midFrame.session.zrun = t.session.zrun
      ∧ midFrame.session.res = .running ∧ t.session.res = .running ∧ midFrame.session.pend = false
      ∧ t.session.pend = false ∧ exec (.sample 16384) midFrame = .next (after (.sample 16384) midFrame)
      ∧ exec (.sample 16384) t = .next (after (.sample 16384) t) :=
  ⟨rfl, rfl, rfl, rfl, rfl, rfl, rfl, rfl, rfl, exec_after _ _, exec_after _ _⟩

end Sys2Proof.Tests
end

/-! The STATUS register read back through READ: each bit of the word belongs to RES, to FSTATE or to one flag, and the
fields of 10_state.md R61 follow bit by bit. -/

namespace Sys2Proof.Machine

/-! ### READ of a named register -/

/-- READ in one equation (46_host_commands.md R307). -/
theorem exec_read (a : BitVec 9) (s : State) : exec (.read a) s = .next (respond (readSpace a s) s) := rfl

/-- The addresses of the named registers are distinct, so each address finds its own register (10_state.md R60). -/
theorem find?_regAddress (r : RegName) : allRegs.find? (fun q => regAddress q == regAddress r) = some r := by
  cases r <;> rfl

/-- The named registers lie below the payload window (10_state.md R60). -/
theorem regAddress_le (r : RegName) : (regAddress r).toNat ≤ 0x0FF := by
  cases r <;> decide

/-- The word at a named register's address is that register's content (10_state.md R60). -/
theorem readSpace_regAddress (r : RegName) (s : State) : readSpace (regAddress r) s = regValue s r := by
  rw [readSpace, if_pos (regAddress_le r), regRead, find?_regAddress]

/-! ### `done` and the codes in STATUS -/

/-- `done` is high exactly in a terminal session (10_state.md R56). -/
theorem done_iff (s : State) : s.done = true ↔ s.session.res ≠ .running := bne_iff_ne

/-- The model's RES code is the one of 10_state.md R32. -/
theorem resultCode_eq_resCode (r : Result) : resultCode r = resCode r := by
  cases r <;> rfl

/-- The model's FSTATE code is the one of 10_state.md R45. -/
theorem frameCode_eq_fstateCode (f : FrameState) : frameCode f = fstateCode f := by
  cases f <;> rfl

/-! ### The bits of STATUS -/

/-- A flag's word has no other bit than the flag's own. -/
theorem getLsbD_flagAt (i : Nat) (b : Bool) {j : Nat} (hj : j < 32) :
    (flagAt i b).getLsbD j = (b && decide (j = i)) := by
  cases b with
  | false => simp [flagAt]
  | true =>
    rw [flagAt, if_pos rfl, ← BitVec.twoPow_eq, BitVec.getLsbD_twoPow, Bool.true_and]
    grind

/-- The one-bit flags of STATUS by bit number; a number that is no flag's gives false (10_state.md R61). -/
def statusFlag (s : State) (i : Nat) : Bool :=
  (s.session.started && decide (i = 8)) || (s.session.pend && decide (i = 9))
    || (s.assembler.lenv && decide (i = 10)) || (s.assembler.lenco && decide (i = 11))
    || (s.assembler.invn && decide (i = 12)) || (s.events.errc && decide (i = 13))
    || (s.timing.dbit && decide (i = 16)) || (s.framer.cbit && decide (i = 17))
    || (s.assembler.hv && decide (i = 18)) || (s.done && decide (i = 31))

/-- No flag stands outside the ten positions of 10_state.md R61. -/
theorem statusFlag_eq_false (s : State) {i : Nat} (hi : i ∉ [8, 9, 10, 11, 12, 13, 16, 17, 18, 31]) :
    statusFlag s i = false := by
  simp only [List.mem_cons, not_or] at hi
  simp [statusFlag, hi]

/-- Bit `i` of STATUS belongs to RES, to FSTATE or to a flag (10_state.md R61). -/
theorem getLsbD_statusWord (s : State) {i : Nat} (hi : i < 32) :
    (statusWord s).getLsbD i =
      ((resCode s.session.res).getLsbD i
        || (decide (4 ≤ i) && (fstateCode s.framer.fstate).getLsbD (i - 4)) || statusFlag s i) := by
  have hlt : (!decide (i < 4)) = decide (4 ≤ i) := by grind
  simp only [statusWord, BitVec.getLsbD_or, BitVec.getLsbD_shiftLeft, BitVec.truncate_eq_setWidth,
    BitVec.getLsbD_setWidth, getLsbD_flagAt _ _ hi, resultCode_eq_resCode, frameCode_eq_fstateCode]
  simp [hi, hlt, show i - 4 < 32 by omega, statusFlag, Bool.or_assoc]

/-! ### The fields of STATUS -/

/-- Bits 2:0 of STATUS hold RES. -/
theorem statusWord_res (s : State) : (statusWord s).extractLsb' 0 3 = resCode s.session.res := by
  ext i hi
  have notFstate : ¬ 4 ≤ i := by omega
  rw [BitVec.getElem_extractLsb', Nat.zero_add, getLsbD_statusWord s (by omega),
    statusFlag_eq_false s (by simp; omega)]
  simp [notFstate, BitVec.getLsbD_eq_getElem hi]

/-- Bits 5:4 of STATUS hold FSTATE. -/
theorem statusWord_fstate (s : State) : (statusWord s).extractLsb' 4 2 = fstateCode s.framer.fstate := by
  ext i hi
  have notRes : (resCode s.session.res).getLsbD (4 + i) = false := BitVec.getLsbD_of_ge _ _ (by omega)
  rw [BitVec.getElem_extractLsb', getLsbD_statusWord s (by omega), statusFlag_eq_false s (by simp; omega), notRes]
  simp [BitVec.getLsbD_eq_getElem hi]

/-- Above FSTATE, STATUS holds the one-bit flags of 10_state.md R61 and nothing else. -/
theorem getLsbD_statusWord_flag (s : State) {i : Nat} (hlo : 6 ≤ i) (hi : i < 32) :
    (statusWord s).getLsbD i = statusFlag s i := by
  rw [getLsbD_statusWord s hi, BitVec.getLsbD_of_ge (resCode _) i (by omega),
    BitVec.getLsbD_of_ge (fstateCode _) (i - 4) (by omega), Bool.and_false, Bool.false_or, Bool.false_or]

/-- Bit 3 of STATUS, between RES and FSTATE, is reserved. -/
theorem statusWord_reserved_three (s : State) : (statusWord s).getLsbD 3 = false := by
  rw [getLsbD_statusWord s (by decide), BitVec.getLsbD_of_ge (resCode _) 3 (by decide),
    statusFlag_eq_false s (by decide)]
  simp

/-- A range of reserved bits of STATUS above FSTATE reads 0. -/
theorem statusWord_extract_reserved (s : State) {lo n : Nat}
    (h : (6 ≤ lo ∧ lo + n ≤ 8) ∨ (14 ≤ lo ∧ lo + n ≤ 16) ∨ (19 ≤ lo ∧ lo + n ≤ 31)) :
    (statusWord s).extractLsb' lo n = 0 := by
  ext i hi
  rw [BitVec.getElem_extractLsb', getLsbD_statusWord_flag s (by omega) (by omega),
    statusFlag_eq_false s (by simp; omega)]
  simp

/-- Every field of STATUS is 0 right after reset (10_state.md R57, R61). -/
theorem statusWord_initial (c : Config) : statusWord (State.initial c) = 0 := by
  simp [statusWord, State.initial, State.done, resultCode, frameCode, flagAt]

/-- Settles O13: READ at address 1 answers STATUS, whose fields and reserved bits are read off its bits. -/
theorem statusRegisterFields : Obligations.StatusRegisterFields := by
  refine ⟨fun s => ⟨statusWord s, ?_, statusWord_res s, statusWord_reserved_three s, statusWord_fstate s,
    statusWord_extract_reserved s (by decide), ?_⟩, statusWord_initial⟩
  · change exec (.read (regAddress .status)) s = .next (respond (regValue s .status) s)
    rw [exec_read, readSpace_regAddress]
  · simp (disch := decide) only [getLsbD_statusWord_flag, statusWord_extract_reserved, done_iff]
    simp [statusFlag]

end Sys2Proof.Machine

/-! The payload window read back through READ: below CAPACITY a byte of PAY, at or beyond it 0. -/

namespace Sys2Proof.Machine

/-! ### READ of the payload window -/

/-- From 0x100 on the read space is the payload window (20_memory.md R81). -/
theorem readSpace_eq_payWindow {a : BitVec 9} (ha : 0x100 ≤ a.toNat) (s : State) :
    readSpace a s = payWindow a s :=
  if_neg (by omega)

/-- Below CAPACITY the window shows the payload byte in bits 7:0 under 24 zero bits (20_memory.md R82). -/
theorem payWindow_of_lt {a : BitVec 9} {s : State} (h : a.toNat - 0x100 < s.cfg.capacity) :
    payWindow a s = 0#24 ++ Memory.read s.assembler.pay (a.toNat - 0x100) := by
  rw [payWindow, if_pos h]
  exact BitVec.setWidth_eq_append (by decide)

/-- At or beyond CAPACITY the window shows 0 (20_memory.md R82). -/
theorem payWindow_of_capacity_le {a : BitVec 9} {s : State} (h : s.cfg.capacity ≤ a.toNat - 0x100) :
    payWindow a s = 0 :=
  if_neg (Nat.not_lt.mpr h)

/-- A byte not yet assembled shows 0 on either side of CAPACITY: below it because the byte is 0x00 (20_memory.md
R82). -/
theorem payWindow_of_bcnt_le {a : BitVec 9} {s : State} (sized : s.ArraysSized)
    (h : s.assembler.bcnt.toNat ≤ a.toNat - 0x100) : payWindow a s = 0 := by
  by_cases inCapacity : a.toNat - 0x100 < s.cfg.capacity
  · rw [payWindow_of_lt inCapacity, sized.payBlankAbove _ h]
    rfl
  · exact payWindow_of_capacity_le (Nat.not_lt.mp inCapacity)

/-- Settles O14: READ answers the word the payload window shows, in each of its three ranges. -/
theorem readAnswersPayloadWindow : Obligations.ReadAnswersPayloadWindow := by
  intro s a ha
  rw [exec_read, readSpace_eq_payWindow ha]
  refine ⟨fun below => ?_, fun beyond => ?_, fun sized unassembled => ?_⟩
  · rw [payWindow_of_lt below, respond]
  · rw [payWindow_of_capacity_le beyond, respond]
  · rw [payWindow_of_bcnt_le sized unassembled, respond]

end Sys2Proof.Machine

/-! The encoding examples of 30_encoding.md R118: text to line, line to command, command to word and back. -/

namespace Sys2Proof.Machine

/-! ### Programs of one command -/

/-- A text that is one line of one command assembles to that command's word (30_encoding.md R116). -/
theorem assembleText_of_oneCommand {t : List Char} {l : Line} {i : Instr} (parsed : parseLine t = some [l])
    (expanded : assembleLine l = some [i]) : assembleText [t] = some [encode i] := by
  simp [assembleText, parsed, expanded]

/-- An example row follows from its stages: the line its text reads as, the command that line stands for, and the
command's word, which decodes back to it (30_encoding.md R110, R112, R116). -/
theorem encodingExample {t : List Char} {l : Line} {i : Instr} {w : Word}
    (stages : parseLine t = some [l] ∧ assembleLine l = some [i] ∧ encode i = w ∧ decode w = .ok i) :
    assembleText [t] = some [w] ∧ encode i = w ∧ decode w = .ok i := by
  obtain ⟨parsed, expanded, encoded, decoded⟩ := stages
  exact ⟨encoded ▸ assembleText_of_oneCommand parsed expanded, encoded, decoded⟩

/-- Settles O5: each row by the line its text reads as, each illegal word by its first broken condition. -/
theorem specEncodingExamples : Obligations.SpecEncodingExamples := by
  refine ⟨?_, by decide, by decide, by decide⟩
  simp only [List.forall_mem_cons]
  exact ⟨encodingExample (l := .nop) (by decide),
    encodingExample (l := .sample (.dec 16384)) (by decide),
    encodingExample (l := .sample (.dec (-1))) (by decide),
    encodingExample (l := .sample (.dec (-32768))) (by decide),
    encodingExample (l := .byte (.hex 0x90)) (by decide),
    encodingExample (l := .eos) (by decide),
    encodingExample (l := .reset) (by decide),
    encodingExample (l := .read (.reg .status)) (by decide),
    encodingExample (l := .read (.pay (.dec 0))) (by decide),
    encodingExample (l := .read (.addr (.hex 0x1FF))) (by decide),
    List.forall_mem_nil _⟩

end Sys2Proof.Machine

/-! RING_PUSH: one ring entry replaced, the cursor moved on. -/

namespace Sys2Proof.Machine

/-! ### The ring after RING_PUSH -/

@[simp] theorem ringPush_cur (n : Nat) (x : B64) (k : Correlator) : (ringPush n x k).cur = (k.cur + 1) % n := rfl
@[simp] theorem ringPush_ring (n : Nat) (x : B64) (k : Correlator) : (ringPush n x k).ring = k.ring.set k.cur x := rfl

/-- A cursor inside the ring reads back the pushed sample (40_correlator.md R154). -/
theorem ringRead_ringPush_cur {k : Correlator} (inside : k.cur < k.ring.length) (n : Nat) (x : B64) :
    ringRead (ringPush n x k) k.cur = x := by
  simp [ringRead, inside]

/-- Every entry but the one at the cursor keeps its content (40_correlator.md R154). -/
theorem ringRead_ringPush_ne {k : Correlator} {i : Nat} (other : i ≠ k.cur) (n : Nat) (x : B64) :
    ringRead (ringPush n x k) i = ringRead k i := by
  simp [ringRead, List.getElem?_set_ne other.symm]

/-- Settles O21: the cursor and the length are fields of the push, the entries its two read rules. -/
theorem ringTakesSampleAtCursor : Obligations.RingTakesSampleAtCursor := fun n x k =>
  ⟨ringPush_cur n x k, by rw [ringPush_ring, List.length_set],
    fun inside => ringRead_ringPush_cur inside n x, fun _ other => ringRead_ringPush_ne other n x⟩

end Sys2Proof.Machine

/-! NORMALIZE: a count of units that a 53-bit significand holds survives rounding, so the quotient by 2^15 is exact. -/

namespace Sys2Proof.Machine

/-! ### The fields of a packed binary64 -/

theorem hiddenBit_eq_two_pow : hiddenBit = 2 ^ 52 := rfl

theorem unitsPerOne_eq_two_pow : unitsPerOne = 2 ^ 1074 := by
  rw [unitsPerOne]
  generalize 1074 = n
  exact Nat.one_shiftLeft n

@[simp] theorem fSign_fPack (neg : Bool) {mag : Nat} (h : mag < 2 ^ 63) : fSign (fPack neg mag) = neg := by
  have clear : (BitVec.ofNat 64 mag).msb = false := by
    rw [BitVec.msb_eq_decide, BitVec.toNat_ofNat]
    exact decide_eq_false (by omega)
  cases neg
  · simp [fSign, fPack, clear]
  · rw [fSign, fPack, if_pos rfl, BitVec.msb_or, clear]; decide

/-- The sign bit does not reach a field of bits 62:0. -/
theorem extractLsb'_fPack (neg : Bool) (mag : Nat) {lo n : Nat} (h : lo + n ≤ 63) :
    ((fPack neg mag).extractLsb' lo n).toNat = mag / 2 ^ lo % 2 ^ n := by
  have signClear : (if neg then 0x8000000000000000 else 0 : B64).extractLsb' lo n = 0 := by
    refine BitVec.eq_of_getLsbD_eq fun i hi => ?_
    have below : lo + i ≠ 63 := by omega
    cases neg
    · simp
    · have signBit : (0x8000000000000000 : B64) = BitVec.twoPow 64 63 := by decide
      simp [signBit, BitVec.getLsbD_twoPow, below.symm]
  rw [fPack, BitVec.extractLsb'_or, signClear, BitVec.ofNat_eq_ofNat, BitVec.zero_or,
    BitVec.extractLsb'_toNat, BitVec.toNat_ofNat, Nat.shiftRight_eq_div_pow]
  have inside : 2 ^ (lo + n) ∣ 2 ^ 64 := Nat.pow_dvd_pow 2 (by omega)
  rw [← Nat.mod_mul_right_div_self, ← pow_add, Nat.mod_mod_of_dvd _ inside, pow_add, Nat.mod_mul_right_div_self]

theorem fExp_fPack (neg : Bool) {mag : Nat} (h : mag < 2 ^ 63) : fExp (fPack neg mag) = mag / hiddenBit := by
  rw [fExp, extractLsb'_fPack neg mag (by decide), hiddenBit_eq_two_pow]
  omega

theorem fFrac_fPack (neg : Bool) (mag : Nat) : fFrac (fPack neg mag) = mag % hiddenBit := by
  rw [fFrac, extractLsb'_fPack neg mag (by decide), hiddenBit_eq_two_pow, pow_zero, Nat.div_one]

/-- A finite binary64 with this sign and this magnitude in units of 2^-1074. -/
structure EncodesUnits (a : B64) (neg : Bool) (u : Nat) : Prop where
  finite : fIsFinite a = true
  sign : fSign a = neg
  units : fUnits a = u

/-- The value of a number that carries an integer's sign and a multiple of its magnitude. -/
theorem EncodesUnits.value {a : B64} {v : Int} {w : Nat} (h : EncodesUnits a (decide (v < 0)) (v.natAbs * w)) :
    fValue a = v * w := by
  rw [fValue, h.sign, h.units, Nat.cast_mul]
  rcases lt_or_ge v 0 with negative | nonnegative
  · rw [decide_eq_true negative, if_pos rfl, ← neg_mul, Int.ofNat_natAbs_of_nonpos negative.le, neg_neg]
  · rw [decide_eq_false nonnegative.not_gt, if_neg Bool.false_ne_true, Int.natAbs_of_nonneg nonnegative]

/-- A significand `q` shifted by `e`, encoded as `roundMag` does, counts `q · 2^e` units; only unshifted significands
may lack the hidden bit. -/
theorem encodesUnits_fPack (neg : Bool) {e q : Nat} (he : e ≤ 2045) (hq : q < 2 * hiddenBit)
    (normal : e = 0 ∨ hiddenBit ≤ q) :
    EncodesUnits (fPack neg (min (e * hiddenBit + q) fInfMag)) neg (q * 2 ^ e) := by
  simp only [fInfMag, hiddenBit_eq_two_pow] at hq normal ⊢
  have inRange : e * 2 ^ 52 + q < 2 ^ 63 := by omega
  rw [min_eq_left (by omega)]
  have hexp : fExp (fPack neg (e * 2 ^ 52 + q)) = (e * 2 ^ 52 + q) / 2 ^ 52 := fExp_fPack neg inRange
  have hfrac : fFrac (fPack neg (e * 2 ^ 52 + q)) = (e * 2 ^ 52 + q) % 2 ^ 52 := fFrac_fPack neg _
  refine ⟨bne_iff_ne.mpr (by omega), fSign_fPack neg inRange, ?_⟩
  rw [fUnits, hiddenBit_eq_two_pow]
  rcases Nat.lt_or_ge q (2 ^ 52) with subnormal | hidden
  · obtain rfl : e = 0 := by omega
    rw [if_pos (by omega), Nat.pow_zero]; omega
  · rw [if_neg (by omega), Nat.shiftLeft_eq]
    congr 2 <;> omega

/-! ### Rounding a count of units that needs no rounding -/

theorem roundQuot_mul_left (q : Nat) {d : Nat} (hd : 0 < d) : roundQuot (q * d) d = q := by
  simp [roundQuot, Nat.mul_div_cancel q hd, hd.ne]

/-- Rounding `u` whole units that fill no bit below a 53-bit significand keeps every bit of `u`. -/
theorem roundMag_mul_right {u d : Nat} (hd : 0 < d) (fits : 2 ^ (u.log2 - 52) ∣ u) :
    roundMag (u * d) d = min ((u.log2 - 52) * hiddenBit + u / 2 ^ (u.log2 - 52)) fInfMag := by
  have hshift : ulpShift (u * d) d = u.log2 - 52 := by rw [ulpShift, Nat.mul_div_cancel u hd]
  have hprod : u * d = u / 2 ^ (u.log2 - 52) * (d <<< (u.log2 - 52)) := by
    rw [Nat.shiftLeft_eq, Nat.mul_comm d, ← Nat.mul_assoc, Nat.div_mul_cancel fits]
  rw [roundMag, hshift, hprod, roundQuot_mul_left _ (by rw [Nat.shiftLeft_eq]; positivity)]

/-- The significand `roundMag` keeps of `u` units has at most 53 bits. -/
theorem significand_lt (u : Nat) : u / 2 ^ (u.log2 - 52) < 2 * hiddenBit := by
  rw [Nat.div_lt_iff_lt_mul (by positivity)]
  calc u < 2 ^ (u.log2 + 1) := Nat.lt_log2_self
    _ ≤ 2 ^ (53 + (u.log2 - 52)) := Nat.pow_le_pow_right (by decide) (by omega)
    _ = 2 * hiddenBit * 2 ^ (u.log2 - 52) := by rw [pow_add]; rfl

/-- A shifted significand has its hidden bit. -/
theorem hiddenBit_le_significand {u : Nat} (shifted : u.log2 - 52 ≠ 0) :
    hiddenBit ≤ u / 2 ^ (u.log2 - 52) := by
  rw [Nat.le_div_iff_mul_le (by positivity), hiddenBit_eq_two_pow, ← pow_add]
  have hu : u ≠ 0 := by rintro rfl; exact shifted rfl
  calc 2 ^ (52 + (u.log2 - 52)) = 2 ^ u.log2 := by congr 1; omega
    _ ≤ u := Nat.log2_self_le hu

/-- A 53-bit count moved up `k` places is rounded at place `k` or below. -/
theorem log2_mul_two_pow_sub_le {m : Nat} (hm : m < 2 ^ 53) (k : Nat) : (m * 2 ^ k).log2 - 52 ≤ k := by
  rcases Nat.eq_zero_or_pos m with rfl | positive
  · simp
  · have hlt : m * 2 ^ k < 2 ^ (53 + k) := by
      rw [pow_add]; exact Nat.mul_lt_mul_of_pos_right hm (by positivity)
    have hlog := (Nat.log2_lt (by positivity)).mpr hlt
    omega

/-- Rounding is exact on 53 bits at any place of the finite range (00_scope.md R11). -/
theorem encodesUnits_roundMag (neg : Bool) {m k d : Nat} (hd : 0 < d) (hm : m < 2 ^ 53) (hk : k ≤ 2045) :
    EncodesUnits (fPack neg (roundMag (m * 2 ^ k * d) d)) neg (m * 2 ^ k) := by
  have hshift := log2_mul_two_pow_sub_le hm k
  have fits : 2 ^ ((m * 2 ^ k).log2 - 52) ∣ m * 2 ^ k := (Nat.pow_dvd_pow 2 hshift).mul_left m
  have kept := encodesUnits_fPack neg (hshift.trans hk) (significand_lt (m * 2 ^ k))
    (or_iff_not_imp_left.mpr hiddenBit_le_significand)
  rwa [Nat.div_mul_cancel fits, ← roundMag_mul_right hd fits] at kept

/-! ### `fl` of an integer and the quotient of two finite numbers -/

theorem unitsPerOne_pos : 0 < unitsPerOne := by
  rw [unitsPerOne_eq_two_pow]; positivity

/-- The rounding of an integer in one equation; the exact zero rounds to +0.0. -/
theorem fOfInt_eq (v : Int) : fOfInt v = fPack (decide (v < 0)) (roundMag (v.natAbs * unitsPerOne) 1) := by
  have hpos : (0 : Int) < unitsPerOne := Int.natCast_pos.mpr unitsPerOne_pos
  rcases eq_or_ne v 0 with rfl | nonzero
  · simp [fOfInt, roundUnits, fZero, roundMag, roundQuot, ulpShift]
  · rw [fOfInt, roundUnits, if_neg (mul_ne_zero nonzero hpos.ne'), Int.natAbs_mul, Int.natAbs_natCast,
      decide_eq_decide.mpr ⟨fun h => neg_of_mul_neg_left h hpos.le, fun h => mul_neg_of_neg_of_pos h hpos⟩]

/-- An integer of at most 53 bits is exact. -/
theorem encodesUnits_fOfInt {v : Int} (hv : v.natAbs < 2 ^ 53) :
    EncodesUnits (fOfInt v) (decide (v < 0)) (v.natAbs * unitsPerOne) := by
  have rounded := encodesUnits_roundMag (decide (v < 0)) (k := 1074) Nat.one_pos hv (by decide)
  rwa [Nat.mul_one, ← unitsPerOne_eq_two_pow, ← fOfInt_eq] at rounded

theorem fIsNaN_of_finite {a : B64} (h : fIsFinite a = true) : fIsNaN a = false := by
  simp [fIsNaN, bne_iff_ne.mp h]

theorem fIsInf_of_finite {a : B64} (h : fIsFinite a = true) : fIsInf a = false := by
  simp [fIsInf, bne_iff_ne.mp h]

/-- Only the zeros have the zero magnitude encoding. -/
theorem fUnits_of_fMag_eq_zero {a : B64} (h : fMag a = 0) : fUnits a = 0 := by
  simp only [fMag, fUnits, fExp, fFrac, BitVec.extractLsb'_toNat, Nat.shiftRight_eq_div_pow] at h ⊢
  rw [if_pos (by omega)]; omega

/-- The quotient of finite numbers, the divisor not a zero, is rounded once (00_scope.md R11). -/
theorem fDiv_of_encodesUnits {a b : B64} {na nb : Bool} {ua ub : Nat} (ha : EncodesUnits a na ua)
    (hb : EncodesUnits b nb ub) (nonzero : ub ≠ 0) :
    fDiv a b = fPack (na != nb) (roundMag (ua * unitsPerOne) ub) := by
  have hmag : fMag b ≠ 0 := fun h => nonzero (hb.units ▸ fUnits_of_fMag_eq_zero h)
  simp [fDiv, fIsNaN_of_finite, fIsInf_of_finite, ha.finite, hb.finite, hmag, ha.sign, hb.sign, ha.units, hb.units]

/-! ### NORMALIZE -/

theorem natAbs_toInt_le (s : BitVec 16) : s.toInt.natAbs ≤ 2 ^ 15 := by
  have hlt := s.toInt_lt
  have hle := s.le_toInt
  omega

theorem encodesUnits_normDivisor : EncodesUnits normDivisor false (2 ^ 15 * unitsPerOne) :=
  encodesUnits_fOfInt (by decide)

/-- 2^-15 is a whole number of units, so the quotient is one too (40_correlator.md R153). -/
theorem encodesUnits_normalize (s : BitVec 16) :
    EncodesUnits (normalize s) (decide (s.toInt < 0)) (s.toInt.natAbs * 2 ^ 1059) := by
  have hs : s.toInt.natAbs < 2 ^ 53 := (natAbs_toInt_le s).trans_lt (by decide)
  have hd : 0 < 2 ^ 15 * unitsPerOne := Nat.mul_pos (by decide) unitsPerOne_pos
  have hquot : s.toInt.natAbs * unitsPerOne * unitsPerOne = s.toInt.natAbs * 2 ^ 1059 * (2 ^ 15 * unitsPerOne) := by
    rw [← Nat.mul_assoc, Nat.mul_assoc _ _ (2 ^ 15), ← pow_add, ← unitsPerOne_eq_two_pow]
  rw [normalize, int16, fDiv_of_encodesUnits (encodesUnits_fOfInt hs) encodesUnits_normDivisor hd.ne', hquot,
    Bool.bne_false]
  exact encodesUnits_roundMag _ hd hs (by decide)

/-- Settles O22: the quotient's value by its sign and its units, and +0.0 by evaluation. -/
theorem normalizeIsExact : Obligations.NormalizeIsExact := by
  intro s
  have h := encodesUnits_normalize s
  refine ⟨h.finite, ?_, ?_⟩
  · rw [h.value, unitsPerOne_eq_two_pow, mul_assoc, pow_add 2 1059 15, Nat.cast_mul]
    rfl
  · rintro rfl
    decide +kernel

end Sys2Proof.Machine

/-! DETECT: the mark energy against the space energy, and what a tie decides. -/

namespace Sys2Proof.Machine

/-! ### The ordered comparison -/

/-- `>f` is strict: no binary64, a NaN or an infinity included, is greater than itself. -/
@[simp] theorem fGt_self (a : B64) : fGt a a = false := by
  have irrefl : decide (fKey a < fKey a) = false := decide_eq_false (lt_irrefl _)
  rw [fGt, irrefl, Bool.and_false]

/-! ### The decision -/

/-- Equal energies decide space (41_bit_detector.md R181). -/
theorem detect_of_tie {c : Sums}
    (tie : toneEnergy c.markSin c.markCos = toneEnergy c.spaceSin c.spaceCos) : detect c = false := by
  rw [detect, tie, fGt_self]

/-- Settles O24: the comparison is DETECT's own equation (R180), the tie follows from its strictness (R181). -/
theorem detectorIsStrictComparison : Obligations.DetectorIsStrictComparison := fun _ =>
  ⟨rfl, detect_of_tie⟩

end Sys2Proof.Machine

/-! The frame-sync state machine cell by cell: SYNC_STEP shifts a line bit in, SEIZE_STEP counts flips, and an
alternation of cells is one flip iterated. -/

namespace Sys2Proof.Machine

/-! ### Shifting in a line bit -/

@[simp] theorem lineBit_eq_ite (bit : Bool) : lineBit bit = if bit then 0#1 else 1#1 := rfl

/-- Shifting in drops the highest bit and appends the line bit below the others (20_memory.md R85). -/
theorem shiftIn_eq_append {n : Nat} (r : BitVec (n + 1)) (lb : BitVec 1) :
    shiftIn r lb = r.extractLsb' 0 n ++ lb := by
  ext i hi
  rw [shiftIn, BitVec.getElem_or, BitVec.getElem_shiftLeft, BitVec.getElem_append]
  by_cases lowest : i = 0
  · subst lowest
    simp
  · have above : ¬ i < 1 := by omega
    simp [above, BitVec.getLsbD_of_ge lb i (by omega), BitVec.getLsbD_eq_getElem (show i - 1 < n + 1 by omega)]

/-! ### One cell event by state -/

/-- A cell event leaves its bit in CBIT, whatever the state (43_frame_fsm.md R210). -/
@[simp] theorem cellEvent_cbit (bit : Bool) (s : State) : (cellEvent bit s).framer.cbit = bit := rfl

/-- In Sync a cell is SYNC_STEP and the CBIT update (43_frame_fsm.md R210). -/
theorem cellEvent_of_sync {s : State} (inSync : s.framer.fstate = .sync) (bit : Bool) :
    cellEvent bit s = { s with framer := noteCell bit (syncStep bit s.framer) } := by
  simp only [cellEvent, frameStep, inSync]
  rfl

/-- In ChannelSeize a cell is SEIZE_STEP and the CBIT update (43_frame_fsm.md R210). -/
theorem cellEvent_of_channelSeize {s : State} (seizing : s.framer.fstate = .channelSeize) (bit : Bool) :
    cellEvent bit s = { s with framer := noteCell bit (seizeStep bit s.framer) } := by
  simp only [cellEvent, frameStep, seizing]
  rfl

/-! ### SYNC_STEP -/

/-- SYNC_STEP in one record: the register after the shift decides the state (43_frame_fsm.md R213). -/
theorem syncStep_eq {f : Framer} (inSync : f.fstate = .sync) (bit : Bool) :
    syncStep bit f =
      { f with
        syncreg := shiftIn f.syncreg (lineBit bit)
        fstate := if shiftIn f.syncreg (lineBit bit) = syncWord then .data else .sync } := by
  unfold syncStep
  dsimp only
  split
  · rfl
  · rw [← inSync]

/-- Settles O32: the cell is SYNC_STEP, and its shift is the concatenation. -/
theorem syncCellRule : Obligations.SyncCellRule := by
  intro s bit inSync
  rw [cellEvent_of_sync inSync, syncStep_eq inSync, shiftIn_eq_append, lineBit_eq_ite]
  rfl

/-! ### SEIZE_STEP -/

/-- A repeated bit clears the count (43_frame_fsm.md R212). -/
theorem seizeStep_repeat (f : Framer) : seizeStep f.cbit f = { f with cnt := 0 } := by
  simp [seizeStep]

/-- A flip counts, and a count over SEIZE_LIMIT enters Sync cleared (43_frame_fsm.md R212). -/
theorem seizeStep_flip (f : Framer) :
    seizeStep (!f.cbit) f =
      if (f.cnt + 1).toNat > seizeLimit then { f with fstate := .sync, cnt := 0 } else { f with cnt := f.cnt + 1 } := by
  simp [seizeStep]

/-- CNT has room for the count that passes SEIZE_LIMIT (10_state.md R46). -/
theorem toNat_cnt_succ {c : BitVec 5} (within : c.toNat ≤ seizeLimit) : (c + 1).toNat = c.toNat + 1 := by
  rw [seizeLimit] at within
  bv_omega

/-! ### A run of flips -/

/-- A cell whose bit is not the one before it. -/
def flipCell (s : State) : State := cellEvent (!s.framer.cbit) s

/-- An alternation that starts with a flip is the flip iterated: each cell's bit is the CBIT the next one negates. -/
theorem runCells_alternatingCells_flip (n : Nat) (s : State) :
    runCells (alternatingCells n (!s.framer.cbit)) s = flipCell^[n] s := by
  induction n generalizing s with
  | zero => rfl
  | succ n ih => exact ih (flipCell s)

/-- ChannelSeize after `n` flips in a row. -/
structure SeizeRun (n : Nat) (s : State) : Prop where
  seizing : s.framer.fstate = .channelSeize
  count : s.framer.cnt.toNat = n

/-- A repeated bit starts the run over. -/
theorem SeizeRun.restart {n : Nat} {s : State} (run : SeizeRun n s) :
    SeizeRun 0 (cellEvent s.framer.cbit s) := by
  rw [cellEvent_of_channelSeize run.seizing, seizeStep_repeat]
  exact ⟨run.seizing, rfl⟩

/-- A flip below the limit makes the run one longer. -/
theorem SeizeRun.flip {n : Nat} {s : State} (run : SeizeRun n s) (below : n < seizeLimit) :
    SeizeRun (n + 1) (flipCell s) := by
  obtain ⟨seizing, count⟩ := run
  have counted : (s.framer.cnt + 1).toNat = n + 1 := by rw [toNat_cnt_succ (by omega), count]
  rw [flipCell, cellEvent_of_channelSeize seizing, seizeStep_flip, if_neg (by omega)]
  exact ⟨seizing, counted⟩

/-- The flip after a run of SEIZE_LIMIT enters Sync with the count cleared. -/
theorem SeizeRun.flip_enters_sync {s : State} (run : SeizeRun seizeLimit s) :
    (flipCell s).framer.fstate = .sync ∧ (flipCell s).framer.cnt = 0 := by
  obtain ⟨seizing, count⟩ := run
  have passed : (s.framer.cnt + 1).toNat = seizeLimit + 1 := by rw [toNat_cnt_succ count.le, count]
  rw [flipCell, cellEvent_of_channelSeize seizing, seizeStep_flip, if_pos (by omega)]
  exact ⟨rfl, rfl⟩

/-- Up to SEIZE_LIMIT flips from a cleared count are a run of that length. -/
theorem SeizeRun.iterate_flip {s : State} (start : SeizeRun 0 s) {n : Nat} (within : n ≤ seizeLimit) :
    SeizeRun n (flipCell^[n] s) := by
  induction n with
  | zero => exact start
  | succ n ih =>
    rw [Function.iterate_succ_apply']
    exact (ih (by omega)).flip (by omega)

/-- One flip more than SEIZE_LIMIT enters Sync (43_frame_fsm.md R217). -/
theorem SeizeRun.iterate_flip_enters_sync {s : State} (start : SeizeRun 0 s) :
    (flipCell^[seizeLimit + 1] s).framer.fstate = .sync
      ∧ (flipCell^[seizeLimit + 1] s).framer.cnt = 0 := by
  rw [Function.iterate_succ_apply']
  exact (start.iterate_flip le_rfl).flip_enters_sync

/-- An alternation that starts with a repeat clears the count first, then flips. -/
theorem runCells_alternatingCells_repeat (n : Nat) (s : State) :
    runCells (alternatingCells (n + 1) s.framer.cbit) s = flipCell^[n] (cellEvent s.framer.cbit s) :=
  runCells_alternatingCells_flip n (cellEvent s.framer.cbit s)

/-- Settles O33: both alternations are runs of flips, one from the start, one from the cleared count after the
repeat. -/
theorem seizureRunLength : Obligations.SeizureRunLength := by
  intro s seizing cleared
  have start : SeizeRun 0 s := ⟨seizing, by rw [cleared]; rfl⟩
  simp only [runCells_alternatingCells_flip, runCells_alternatingCells_repeat 30, runCells_alternatingCells_repeat 31]
  obtain ⟨synced, recleared⟩ := start.iterate_flip_enters_sync
  refine ⟨fun n within => ⟨(start.iterate_flip within).seizing, (start.iterate_flip within).count⟩, synced,
    recleared, (start.restart.iterate_flip le_rfl).seizing, start.restart.iterate_flip_enters_sync.1,
    fun n within b repeated => ?_⟩
  rw [repeated]
  exact BitVec.eq_of_toNat_eq (start.iterate_flip within).restart.count

end Sys2Proof.Machine

/-! The second byte of a frame: LENGTH combines the two header bytes, and no length it fixes is due at the second
byte. -/

namespace Sys2Proof.Machine

/-! ### The raw length -/

/-- The header is its first byte times 256 plus its second (44_nibble_byte_assembler.md R246). -/
theorem rawLength_eq (byte0 byte1 : Byte) :
    rawLength byte0 byte1 = 2 * (byte0.toNat * 256 + byte1.toNat) + 4 := by
  have concat : byte0.zeroExtend 16 <<< 8 ||| byte1.zeroExtend 16 = byte0 ++ byte1 := by
    rw [← BitVec.setWidth_append_eq_shiftLeft_setWidth_or, BitVec.setWidth_eq]
  rw [rawLength, concat, BitVec.toNat_append, ← Nat.shiftLeft_add_eq_or_of_lt byte1.isLt, Nat.shiftLeft_eq]

/-- The 16-bit header leaves the raw length within RAWLEN's 18 bits (10_state.md R53). -/
theorem rawLength_lt (byte0 byte1 : Byte) : rawLength byte0 byte1 < 2 ^ 18 := by
  have := byte0.isLt
  have := byte1.isLt
  rw [rawLength_eq]
  omega

/-! ### LENGTH -/

/-- The length registers in one record: only the coercion to 288 sets LENCO (44_nibble_byte_assembler.md R246). -/
theorem lengthFields_eq (raw : Nat) (m : Assembler) :
    lengthFields raw m = { m with
      rawlen := BitVec.ofNat 18 raw
      declen := if raw = 292 then 292 else 288
      lenco := if raw = 292 then m.lenco else true
      lenv := true } := by
  unfold lengthFields lenExpected
  split <;> rfl

/-- LENGTH writes the length registers, and reports only a coercion (44_nibble_byte_assembler.md R246). -/
theorem lengthStep_eq {s : State} {raw : Nat}
    (header : rawLength (Memory.read s.assembler.pay 0) (Memory.read s.assembler.pay 1) = raw) :
    lengthStep s = { s with
      assembler := lengthFields raw s.assembler
      events := if raw = 292 then s.events else { s.events with evcode := .malformedLengthField } } := by
  unfold lengthStep lenExpected
  rw [header]
  dsimp only
  split <;> rfl

/-! ### The completion test at the second byte -/

/-- Before BCNT reaches DECLEN/2 the test changes nothing (44_nibble_byte_assembler.md R245). -/
theorem completeIfDue_of_ne {s : State} (early : s.assembler.bcnt.toNat ≠ s.assembler.declen.toNat / 2) :
    completeIfDue s = s := by
  rw [completeIfDue, beq_false_of_ne early, Bool.and_false]
  rfl

/-- Neither length that LENGTH fixes is a frame of two bytes. -/
theorem completeIfDue_lengthStep {s : State} (second : s.assembler.bcnt = 2) :
    completeIfDue (lengthStep s) = lengthStep s := by
  apply completeIfDue_of_ne
  rw [lengthStep_eq rfl, lengthFields_eq, second]
  dsimp only
  split <;> decide

/-- With room, the second byte is appended and LENGTH runs on it (44_nibble_byte_assembler.md R245). -/
theorem storeByte_second {s : State} (first : s.assembler.bcnt = 1) (room : 2 ≤ s.cfg.capacity) (v : Byte) :
    storeByte v s = lengthStep (onAssembler (appendByte v) s) := by
  have count : s.assembler.bcnt.toNat = 1 := by rw [first]; rfl
  have second : s.assembler.bcnt + 1 = 2 := by rw [first]; rfl
  obtain ⟨full, -⟩ | ⟨-, other, -⟩ | ⟨-, -, stored⟩ := storeByte_cases v s
  · omega
  · exact absurd second other
  · exact stored.trans (completeIfDue_lengthStep second)

/-- The second byte stands at PAY[1], so LENGTH reads it behind the first (44_nibble_byte_assembler.md R245, R246). -/
theorem rawLength_onAssembler_appendByte {s : State} (canonical : s.assembler.pay.wf = true)
    (first : s.assembler.bcnt = 1) (v : Byte) :
    rawLength (Memory.read (onAssembler (appendByte v) s).assembler.pay 0)
        (Memory.read (onAssembler (appendByte v) s).assembler.pay 1)
      = 2 * ((Memory.read s.assembler.pay 0).toNat * 256 + v.toNat) + 4 := by
  have count : s.assembler.bcnt.toNat = 1 := by rw [first]; rfl
  simp only [onAssembler, appendByte, count, Memory.read_write canonical, rawLength_eq]
  rfl

/-- Settles O40: the second byte is appended at PAY[1], and LENGTH runs on the header it completes. -/
theorem secondByteFixesLength : Obligations.SecondByteFixesLength := by
  intro s v canonical first room
  have header := rawLength_onAssembler_appendByte canonical first v
  refine ⟨Memory.write s.assembler.pay 1 v, ?_, Memory.write_wf canonical 1 v, ?_,
    fun a => Memory.read_write canonical 1 a v⟩
  · rw [storeByte_second first room, lengthStep_eq header, lengthFields_eq]
    simp only [onAssembler, appendByte, first]
    rfl
  · rw [← header]
    exact rawLength_lt _ _

end Sys2Proof.Machine

/-! The decoder as a relation: a word decodes to a command exactly when RSV is 0 and the rest of the word is that
command's row of the opcode map. -/

namespace Sys2Proof.Machine

/-! ### The opcode map -/

/-- The opcode map of 30_encoding.md R112 with the zero bits that R113 asks of each OP. -/
inductive OpcodeRow (w : Word) : Instr → Prop where
  | nop (op : opField w = 0x0) (bare : dataField w = 0) : OpcodeRow w .nop
  | sample (op : opField w = 0x1) : OpcodeRow w (.sample (dataField w))
  | byte (op : opField w = 0x2) (high : byteHighField w = 0) : OpcodeRow w (.byte (byteField w))
  | eos (op : opField w = 0x3) (bare : dataField w = 0) : OpcodeRow w .eos
  | reset (op : opField w = 0x4) (bare : dataField w = 0) : OpcodeRow w .reset
  | read (op : opField w = 0x5) (high : addrHighField w = 0) : OpcodeRow w (.read (addrField w))

theorem decodeBare_eq_ok_iff {w : Word} {i j : Instr} :
    decodeBare w i = .ok j ↔ dataField w = 0 ∧ j = i := by
  unfold decodeBare
  split <;> simp_all [eq_comm]

/-- A word with RSV = 0 that matches a row decodes to the row's command (30_encoding.md R112). -/
theorem decode_of_row {w : Word} {i : Instr} (rsv : rsvField w = 0) (row : OpcodeRow w i) : decode w = .ok i := by
  cases row <;> simp [decode, decodeBare, *]

/-- The decoder answers exactly the rows of the opcode map (30_encoding.md R112, R113). -/
theorem decode_eq_ok_iff {w : Word} {i : Instr} : decode w = .ok i ↔ rsvField w = 0 ∧ OpcodeRow w i := by
  refine ⟨fun decoded => ?_, fun ⟨rsv, row⟩ => decode_of_row rsv row⟩
  have rsv : rsvField w = 0 := by
    by_contra reserved
    rw [decode, if_pos reserved] at decoded
    cases decoded
  refine ⟨rsv, ?_⟩
  rw [decode, if_neg (not_not.mpr rsv)] at decoded
  split at decoded
  next op =>
    obtain ⟨bare, rfl⟩ := decodeBare_eq_ok_iff.mp decoded
    exact .nop op bare
  split at decoded
  next op =>
    cases decoded
    exact .sample op
  split at decoded
  next op =>
    split at decoded
    next high =>
      cases decoded
      exact .byte op high
    · cases decoded
  split at decoded
  next op =>
    obtain ⟨bare, rfl⟩ := decodeBare_eq_ok_iff.mp decoded
    exact .eos op bare
  split at decoded
  next op =>
    obtain ⟨bare, rfl⟩ := decodeBare_eq_ok_iff.mp decoded
    exact .reset op bare
  split at decoded
  next op =>
    split at decoded
    next high =>
      cases decoded
      exact .read op high
    · cases decoded
  · cases decoded

/-! ### Well-formed words -/

/-- The five conditions of 30_encoding.md R113. -/
theorem wellFormedWord_iff (w : Word) :
    wellFormedWord w = true ↔
      opField w ≤ 0x5 ∧ rsvField w = 0
        ∧ (opField w = 0x0 ∨ opField w = 0x3 ∨ opField w = 0x4 → dataField w = 0)
        ∧ (opField w = 0x2 → byteHighField w = 0) ∧ (opField w = 0x5 → addrHighField w = 0) := by
  simp only [wellFormedWord, Bool.and_eq_true, Bool.or_eq_true, Bool.not_eq_true', Bool.or_eq_false_iff,
    decide_eq_true_eq, beq_iff_eq, beq_eq_false_iff_ne]
  grind

/-- Every row of the opcode map is well-formed, so a word that is not well-formed does not decode. -/
theorem wellFormedWord_of_decode {w : Word} {i : Instr} (decoded : decode w = .ok i) : wellFormedWord w = true := by
  obtain ⟨rsv, row⟩ := decode_eq_ok_iff.mp decoded
  rw [wellFormedWord_iff]
  cases row <;> simp_all

/-! ### The words of the commands without an operand -/

/-- A word with RSV = 0 is its OP and its DATA (30_encoding.md R110). -/
theorem packWord_opField_dataField {w : Word} (rsv : rsvField w = 0) : packWord (opField w) (dataField w) = w := by
  refine BitVec.eq_of_getLsbD_eq fun i hi => ?_
  have packed : (packWord (opField w) (dataField w)).getLsbD i
      = (decide (28 ≤ i) && w.getLsbD i || decide (i < 16) && w.getLsbD i) := by
    simp only [packWord, opField, dataField, BitVec.getLsbD_or, BitVec.getLsbD_shiftLeft,
      BitVec.truncate_eq_setWidth, BitVec.getLsbD_setWidth, BitVec.getLsbD_extractLsb']
    grind
  have reserved (above : 16 ≤ i) (below : i < 28) : w.getLsbD i = false := by
    have clear : (rsvField w).getLsbD (i - 16) = false := by rw [rsv]; exact BitVec.getLsbD_zero
    simpa [rsvField, Nat.add_sub_cancel' above, show i - 16 < 12 by omega] using clear
  rw [packed]
  grind

/-- `NOP` is the word 0 alone (30_encoding.md R112, R115). -/
theorem decode_eq_nop_iff (w : Word) : decode w = .ok .nop ↔ w = 0x00000000 := by
  constructor
  · intro decoded
    obtain ⟨rsv, row⟩ := decode_eq_ok_iff.mp decoded
    cases row with
    | nop op bare => rw [← packWord_opField_dataField rsv, op, bare]; rfl
  · rintro rfl
    decide

/-- `EOS` is the word 0x30000000 alone (30_encoding.md R112, R115). -/
theorem decode_eq_eos_iff (w : Word) : decode w = .ok .eos ↔ w = 0x30000000 := by
  constructor
  · intro decoded
    obtain ⟨rsv, row⟩ := decode_eq_ok_iff.mp decoded
    cases row with
    | eos op bare => rw [← packWord_opField_dataField rsv, op, bare]; rfl
  · rintro rfl
    decide

end Sys2Proof.Machine

/-! One command word through the step: taken off the list, then run as the command it decodes to, or rejected. -/

namespace Sys2Proof.Machine

/-! ### Serving a command word -/

/-- On a legal configuration a step takes the oldest command word off the list and serves it (46_host_commands.md
R301). -/
theorem step_command {s : State} {w : Word} {rest : List Input} (legal : s.cfg.legal = true)
    (oldest : s.input = .command w :: rest) : step s = serveCommand w { s with input := rest } := by
  rw [step, if_pos legal, serveInput, oldest]

/-- A word that decodes runs as its command (46_host_commands.md R301). -/
theorem serveCommand_of_ok {w : Word} {i : Instr} (decoded : decode w = .ok i) (s : State) :
    serveCommand w s = exec i s := by
  rw [serveCommand, decoded]

/-- A word that does not decode is rejected (46_host_commands.md R301, R309). -/
theorem serveCommand_of_error {w : Word} {e : DecodeError} (illegal : decode w = .error e) (s : State) :
    serveCommand w s = .next (reject w s) := by
  rw [serveCommand, illegal]

/-- Settles O7: a word that is not well-formed has no row of the opcode map, and a well-formed one has the row of its
OP. -/
theorem stepDispatchesByOpcode : Obligations.StepDispatchesByOpcode := by
  intro s w rest legal oldest
  have runs {i : Instr} (rsv : rsvField w = 0) (row : OpcodeRow w i) :
      step s = exec i { s with input := rest } := by
    rw [step_command legal oldest, serveCommand_of_ok (decode_of_row rsv row)]
  have opIs {n : BitVec 4} (h : (w.extractLsb' 28 4).toNat = n.toNat) : opField w = n := BitVec.eq_of_toNat_eq h
  refine ⟨fun malformed => ?_, fun wf => ?_⟩
  · cases decoded : decode w with
    | ok i => simp [wellFormedWord_of_decode decoded] at malformed
    | error e => rw [step_command legal oldest, serveCommand_of_error decoded, reject_eq]
  · obtain ⟨-, rsv, bare, byteHigh, addrHigh⟩ := (wellFormedWord_iff w).mp wf
    exact ⟨fun h => runs rsv (.nop (opIs h) (bare (.inl (opIs h)))), fun h => runs rsv (.sample (opIs h)),
      fun h => runs rsv (.byte (opIs h) (byteHigh (opIs h))),
      fun h => runs rsv (.eos (opIs h) (bare (.inr (.inl (opIs h))))),
      fun h => runs rsv (.reset (opIs h) (bare (.inr (.inr (opIs h))))),
      fun h => runs rsv (.read (opIs h) (addrHigh (opIs h)))⟩

end Sys2Proof.Machine

/-! NOP, EOS and BYTE: what each leaves while the session runs and after its end. -/

namespace Sys2Proof.Machine

/-! ### `done` while the session runs -/

theorem done_of_running {s : State} (running : s.session.res = .running) : s.done = false := by
  rw [State.done, running]
  rfl

/-! ### One equation per command and case -/

/-- NOP in one equation (46_host_commands.md R303). -/
theorem exec_nop (s : State) : exec .nop s = .next (respond 0 s) := rfl

/-- RESET in one equation (46_host_commands.md R308). -/
theorem exec_reset (s : State) : exec .reset s = .next (respond 0 (resetAll s)) := rfl

/-- SAMPLE after the end of the session is ignored (46_host_commands.md R310). -/
theorem exec_sample_terminal {s : State} (ended : s.session.res ≠ .running) (x : BitVec 16) :
    exec (.sample x) s = .next (respond 0 s) :=
  if_pos ((done_iff s).mpr ended)

/-- SAMPLE while a byte is pending is rejected (46_host_commands.md R302). -/
theorem exec_sample_pending {s : State} (running : s.session.res = .running) (pending : s.session.pend = true)
    (x : BitVec 16) : exec (.sample x) s = .next (reject (encode (.sample x)) s) := by
  simp [exec, execSample, done_of_running running, pending]

/-- SAMPLE with no byte pending is SAMPLE_STEP and the answer 0 (46_host_commands.md R302). -/
theorem exec_sample_running {s : State} (running : s.session.res = .running) (unpaired : s.session.pend = false)
    (x : BitVec 16) : exec (.sample x) s = .next (respond 0 (sampleStep x s)) := by
  simp [exec, execSample, done_of_running running, unpaired]

/-- BYTE after the end of the session is ignored (46_host_commands.md R310). -/
theorem exec_byte_terminal {s : State} (ended : s.session.res ≠ .running) (b : Byte) :
    exec (.byte b) s = .next (respond 0 s) :=
  if_pos ((done_iff s).mpr ended)

/-- BYTE while running is BYTE_IN and the answer 0 (46_host_commands.md R304). -/
theorem exec_byte_running {s : State} (running : s.session.res = .running) (b : Byte) :
    exec (.byte b) s = .next (respond 0 (byteIn b s)) := by
  simp [exec, execByte, done_of_running running]

/-- EOS after the end of the session is ignored (46_host_commands.md R310). -/
theorem exec_eos_terminal {s : State} (ended : s.session.res ≠ .running) : exec .eos s = .next (respond 0 s) :=
  if_pos ((done_iff s).mpr ended)

/-- EOS while running is END_OF_STREAM and the answer 0 (46_host_commands.md R306). -/
theorem exec_eos_running {s : State} (running : s.session.res = .running) :
    exec .eos s = .next (respond 0 (endOfStream s)) := by
  simp [exec, execEos, done_of_running running]

/-! ### NOP and EOS -/

/-- Settles O11: the only word of NOP, and its answer. -/
theorem nopChangesNothing : Obligations.NopChangesNothing :=
  ⟨decode_eq_nop_iff, exec_nop⟩

/-- Settles O15: the only word of EOS, and END_OF_STREAM or nothing. -/
theorem eosEndsRunningSession : Obligations.EosEndsRunningSession := by
  refine ⟨decode_eq_eos_iff, fun s => ⟨fun running => ?_, exec_eos_terminal⟩⟩
  rw [exec_eos_running running, endOfStream_eq, respond]

/-! ### Byte pairs -/

/-- The sample of a pair is the second byte above the first (20_memory.md R84). -/
theorem pairSample_eq_append (second first : Byte) : pairSample second first = second ++ first := by
  rw [pairSample, ← BitVec.setWidth_append_eq_shiftLeft_setWidth_or, BitVec.setWidth_eq]

/-- The first byte of a pair is latched (45_session_driver.md R273). -/
theorem byteIn_first {s : State} (unpaired : s.session.pend = false) (b : Byte) : byteIn b s = setPair true b s := by
  simp [byteIn, unpaired]

/-- The second byte of a pair clears PEND and makes the sample (45_session_driver.md R273). -/
theorem byteIn_second {s : State} (pending : s.session.pend = true) (b : Byte) :
    byteIn b s = sampleStep (b ++ s.session.lobyte) (setPair false s.session.lobyte s) := by
  rw [byteIn, if_pos pending, pairSample_eq_append]

/-- Settles O16: ignored after the end, latched as a first byte, and as a second byte the SAMPLE_STEP that SAMPLE runs
once PEND is cleared. -/
theorem byteCommandPairsBytes : Obligations.ByteCommandPairsBytes := by
  refine fun s b => ⟨fun ended => exec_byte_terminal ended b, fun running unpaired => ?_, fun running pending => ?_⟩
  · rw [exec_byte_running running, byteIn_first unpaired]
    rfl
  · refine ⟨_, exec_byte_running running b, ?_⟩
    rw [byteIn_second pending]
    exact exec_sample_running (s := setPair false s.session.lobyte s) running rfl _

end Sys2Proof.Machine

/-! The ports: every command leaves the inputs still to come, and adds one word to the responses. -/

namespace Sys2Proof.Machine

/-! ### What no stage of the block writes -/

/-- Neither the inputs to come nor the words answered differ. -/
structure PortsKept (s t : State) : Prop where
  input : t.input = s.input
  resp : t.resp = s.resp

theorem PortsKept.refl (s : State) : PortsKept s s := ⟨rfl, rfl⟩

theorem PortsKept.trans {s t u : State} (h : PortsKept s t) (k : PortsKept t u) : PortsKept s u :=
  ⟨k.input.trans h.input, k.resp.trans h.resp⟩

theorem CellFrame.portsKept {s t : State} (h : CellFrame s t) : PortsKept s t := ⟨h.input, h.resp⟩

theorem setGate_portsKept (started : Bool) (zrun : BitVec 10) (s : State) : PortsKept s (setGate started zrun s) :=
  ⟨rfl, rfl⟩

theorem setPair_portsKept (pend : Bool) (lobyte : Byte) (s : State) : PortsKept s (setPair pend lobyte s) :=
  ⟨rfl, rfl⟩

theorem silenceGate_portsKept (x : BitVec 16) (s : State) : PortsKept s (silenceGate x s).1 := by
  obtain ⟨-, -, leading⟩ | ⟨-, sound⟩ | ⟨-, -, -, limit⟩ | ⟨-, -, -, interior⟩ := silenceGate_cases x s
  · rw [leading]; exact .refl s
  · rw [sound]; exact setGate_portsKept _ _ s
  · rw [limit]; exact (setGate_portsKept _ _ s).trans (terminate_cellFrame _ _).portsKept
  · rw [interior]; exact setGate_portsKept _ _ s

theorem wrap_portsKept (bit : Bool) (s : State) : PortsKept s (wrap bit s) := by
  obtain ⟨-, unwrapped⟩ | ⟨-, wrapped⟩ := wrap_cases bit s
  · rw [unwrapped]; exact .refl s
  · have cell := cellEvent_cellFrame bit { s with timing := wrapPhase s.timing }
    rw [wrapped]; exact ⟨cell.input, cell.resp⟩

theorem pipeline_portsKept (x : BitVec 16) (s : State) : PortsKept s (pipeline x s) :=
  ⟨(wrap_portsKept _ _).input, (wrap_portsKept _ _).resp⟩

theorem sampleStep_portsKept (x : BitVec 16) (s : State) : PortsKept s (sampleStep x s) := by
  by_cases running : s.session.res = .running
  · rw [sampleStep_running x running]
    split
    · exact (silenceGate_portsKept x s).trans (pipeline_portsKept x _)
    · exact silenceGate_portsKept x s
  · simp only [sampleStep, State.running, beq_false_of_ne running]
    exact .refl s

theorem byteIn_portsKept (b : Byte) (s : State) : PortsKept s (byteIn b s) := by
  cases pend : s.session.pend with
  | false => rw [byteIn_first pend]; exact setPair_portsKept _ _ s
  | true => rw [byteIn_second pend]; exact (setPair_portsKept _ _ s).trans (sampleStep_portsKept _ _)

/-! ### One response to each command -/

/-- The word a command answers: what READ reads, and 0 from every other command (46_host_commands.md R300). -/
def answer (s : State) : Instr → Word
  | .read a => readSpace a s
  | _ => 0

@[simp] theorem answer_read (s : State) (a : BitVec 9) : answer s (.read a) = readSpace a s := rfl

theorem answer_of_not_read {i : Instr} (other : ∀ a, i ≠ .read a) (s : State) : answer s i = 0 := by
  cases i with
  | read a => exact absurd rfl (other a)
  | _ => rfl

/-- Every command puts its answer on the response port and otherwise leaves both ports (46_host_commands.md R300). -/
theorem exec_answers (i : Instr) (s : State) :
    ∃ t, exec i s = .next (respond (answer s i) t) ∧ PortsKept s t := by
  cases i with
  | nop => exact ⟨s, exec_nop s, .refl s⟩
  | sample x =>
    by_cases running : s.session.res = .running
    · cases pend : s.session.pend with
      | false => exact ⟨_, exec_sample_running running pend x, sampleStep_portsKept x s⟩
      | true => exact ⟨report .illegalCommand _ s, exec_sample_pending running pend x, ⟨rfl, rfl⟩⟩
    · exact ⟨s, exec_sample_terminal running x, .refl s⟩
  | byte b =>
    by_cases running : s.session.res = .running
    · exact ⟨_, exec_byte_running running b, byteIn_portsKept b s⟩
    · exact ⟨s, exec_byte_terminal running b, .refl s⟩
  | eos =>
    by_cases running : s.session.res = .running
    · exact ⟨_, exec_eos_running running, ⟨rfl, rfl⟩⟩
    · exact ⟨s, exec_eos_terminal running, .refl s⟩
  | reset => exact ⟨resetAll s, exec_reset s, ⟨rfl, rfl⟩⟩
  | read a => exact ⟨s, exec_read a s, .refl s⟩

/-- The input list is not in the read space (20_memory.md R81). -/
theorem readSpace_withInput (a : BitVec 9) (s : State) (rest : List Input) :
    readSpace a { s with input := rest } = readSpace a s := rfl

/-- Settles O10: a command word that decodes gives its command's answer, and one that does not is rejected with 0. -/
theorem everyCommandGetsOneResponse : Obligations.EveryCommandGetsOneResponse := by
  intro s w rest legal oldest
  rw [step_command legal oldest]
  cases decoded : decode w with
  | ok i =>
    obtain ⟨t, runs, kept⟩ := exec_answers i { s with input := rest }
    refine ⟨_, (serveCommand_of_ok decoded _).trans runs, kept.input, fun a isRead => ?_, fun notRead => ?_⟩
    · cases isRead
      rw [respond_resp, kept.resp, answer_read, readSpace_withInput]
    · rw [respond_resp, kept.resp, answer_of_not_read fun a h => notRead a (congrArg _ h)]
  | error e =>
    refine ⟨_, serveCommand_of_error decoded _, rfl, fun a isRead => ?_, fun _ => rfl⟩
    cases isRead

end Sys2Proof.Machine

/-! ## Events and endings (60_exceptions.md R341, R343) -/

namespace Sys2Proof.Machine

/-- `report` writes the event registers and nothing else: EVCODE always, EVSYM for InvalidNibble only, EVCMD and ERRC
for IllegalCommand only (60_exceptions.md R341). -/
theorem report_eq (e : Event) (info : Word) (s : State) :
    report e info s =
      { s with
        events :=
          { evcode := e
            evsym := if e = .invalidNibble then info.extractLsb' 0 6 else s.events.evsym
            evcmd := if e = .illegalCommand then info else s.events.evcmd
            errc := if e = .illegalCommand then true else s.events.errc } } := rfl

/-- Settles O43: `report` by its one equation, and the three rows of R343 as `terminate` on each of its endings. -/
theorem reportAndTerminateRules : Obligations.ReportAndTerminateRules := by
  refine ⟨report_eq, fun s => ⟨?exhausted, ?silence, ?overflow⟩⟩
  case exhausted => exact terminate_eq .streamExhausted s
  case silence => exact terminate_eq .silenceTimeout s
  case overflow => exact terminate_eq .bufferOverflow s

end Sys2Proof.Machine

/-! The decoder against the encoder, the five conditions of 30_encoding.md R113 and the match and mask table of R115. -/

namespace Sys2Proof.Machine

/-! ### Encode, then decode -/

/-- A field of a packed word that lies in DATA and covers the operand gives the operand back. -/
theorem extractLsb'_packWord_operand (op : BitVec 4) {n : Nat} (v : BitVec n) (fits : n ≤ 16) :
    (packWord op (v.zeroExtend 16)).extractLsb' 0 n = v := by
  rw [Laws.extractLsb'_packWord op _ (by omega)]
  ext i hi
  simp [show i < 16 by omega, BitVec.getLsbD_eq_getElem hi]

/-- DATA of a packed word. -/
theorem dataField_packWord (op : BitVec 4) (data : BitVec 16) : dataField (packWord op data) = data := by
  simpa [dataField] using extractLsb'_packWord_operand op data le_rfl

/-- Bits of DATA above the operand are 0 in a packed word. -/
theorem extractLsb'_packWord_above (op : BitVec 4) {m : Nat} (v : BitVec m) {lo n : Nat} (above : m ≤ lo)
    (inData : lo + n ≤ 16) : (packWord op (v.zeroExtend 16)).extractLsb' lo n = 0 := by
  rw [Laws.extractLsb'_packWord _ _ inData, Laws.extractLsb'_zeroExtend_above _ above]

/-- The word of a command stands in the command's row of the opcode map (30_encoding.md R112). -/
theorem opcodeRow_encode (i : Instr) : OpcodeRow (encode i) i := by
  cases i with
  | nop => exact .nop (by decide) (by decide)
  | sample x =>
    have row := OpcodeRow.sample (Laws.opField_packWord 0x1 x)
    rwa [dataField_packWord] at row
  | byte b =>
    have row := OpcodeRow.byte (Laws.opField_packWord 0x2 (b.zeroExtend 16))
      (extractLsb'_packWord_above _ b (by decide) (by decide))
    rwa [byteField, extractLsb'_packWord_operand _ b (by decide)] at row
  | eos => exact .eos (by decide) (by decide)
  | reset => exact .reset (by decide) (by decide)
  | read a =>
    have row := OpcodeRow.read (Laws.opField_packWord 0x5 (a.zeroExtend 16))
      (extractLsb'_packWord_above _ a (by decide) (by decide))
    rwa [addrField, extractLsb'_packWord_operand _ a (by decide)] at row

theorem rsvField_encode (i : Instr) : rsvField (encode i) = 0 := by
  cases i <;> exact Laws.rsvField_packWord _ _

/-- Settles O1: the word of a command stands in the command's row, with RSV = 0. -/
theorem decodeOfEncodeIsIdentity : Obligations.DecodeOfEncodeIsIdentity := fun i =>
  decode_of_row (rsvField_encode i) (opcodeRow_encode i)

/-! ### Decode, then encode -/

/-- DATA whose bits above a narrower operand are 0 is the operand extended with zeros. -/
theorem zeroExtend_extractLsb'_of_high_zero {w : Word} {n : Nat} (fits : n ≤ 16)
    (high : w.extractLsb' n (16 - n) = 0) : (w.extractLsb' 0 n).zeroExtend 16 = dataField w := by
  refine BitVec.eq_of_getLsbD_eq fun i hi => ?_
  by_cases below : i < n
  · simp [dataField, hi, below]
  · have clear : (w.extractLsb' n (16 - n)).getLsbD (i - n) = false := by rw [high]; exact BitVec.getLsbD_zero
    have bit : w.getLsbD i = false := by
      simpa [Nat.add_sub_cancel' (Nat.not_lt.mp below), show i - n < 16 - n by omega] using clear
    simp [dataField, below, bit]

/-- In a row of the opcode map the command's word has the word's own OP and DATA. -/
theorem OpcodeRow.encode_eq {w : Word} {i : Instr} (row : OpcodeRow w i) :
    encode i = packWord (opField w) (dataField w) := by
  cases row with
  | nop op bare | eos op bare | reset op bare => rw [op, bare]; rfl
  | sample op => rw [op]; rfl
  | byte op high => rw [op, ← zeroExtend_extractLsb'_of_high_zero (n := 8) (by decide) high]; rfl
  | read op high => rw [op, ← zeroExtend_extractLsb'_of_high_zero (n := 9) (by decide) high]; rfl

/-- A word that decodes is its command's word (30_encoding.md R113). -/
theorem encode_of_decode {w : Word} {i : Instr} (decoded : decode w = .ok i) : encode i = w := by
  obtain ⟨rsv, row⟩ := decode_eq_ok_iff.mp decoded
  rw [row.encode_eq, packWord_opField_dataField rsv]

/-- Settles O2. -/
theorem encodeOfDecodeIsIdentity : Obligations.EncodeOfDecodeIsIdentity := fun _ _ => encode_of_decode

/-- A word decodes to a command exactly when it is the command's word. -/
theorem decode_eq_ok_iff_encode {w : Word} {i : Instr} : decode w = .ok i ↔ w = encode i :=
  ⟨fun decoded => (encode_of_decode decoded).symm, fun h => h ▸ decodeOfEncodeIsIdentity i⟩

/-! ### The five conditions -/

/-- The decoder takes exactly the well-formed words (30_encoding.md R113). -/
theorem exists_decode_iff (w : Word) : (∃ i, decode w = .ok i) ↔ wellFormedWord w = true := by
  refine ⟨fun ⟨i, decoded⟩ => wellFormedWord_of_decode decoded, fun wf => ?_⟩
  obtain ⟨opLe, rsv, bare, byteHigh, addrHigh⟩ := (wellFormedWord_iff w).mp wf
  have takes {i : Instr} (row : OpcodeRow w i) : ∃ i, decode w = .ok i := ⟨i, decode_of_row rsv row⟩
  have opCases : opField w = 0x0 ∨ opField w = 0x1 ∨ opField w = 0x2 ∨ opField w = 0x3 ∨ opField w = 0x4
      ∨ opField w = 0x5 := by bv_omega
  obtain op | op | op | op | op | op := opCases
  · exact takes (.nop op (bare (.inl op)))
  · exact takes (.sample op)
  · exact takes (.byte op (byteHigh op))
  · exact takes (.eos op (bare (.inr (.inl op))))
  · exact takes (.reset op (bare (.inr (.inr op))))
  · exact takes (.read op (addrHigh op))

/-- A word that does not decode is not well-formed. -/
theorem wellFormedWord_of_error {w : Word} {e : DecodeError} (illegal : decode w = .error e) :
    wellFormedWord w = false := by
  rw [← Bool.not_eq_true, ← exists_decode_iff, illegal]
  rintro ⟨i, h⟩
  cases h

/-- Settles O3: the conditions are those of the model's own predicate, OP read as a number. -/
theorem decodeAcceptsExactlyWellFormedWords : Obligations.DecodeAcceptsExactlyWellFormedWords := by
  intro w
  have opIs (n : BitVec 4) : opField w = n ↔ (w.extractLsb' 28 4).toNat = n.toNat := BitVec.toNat_inj.symm
  have opLe : opField w ≤ 0x5 ↔ (w.extractLsb' 28 4).toNat ≤ 5 := BitVec.le_def
  rw [exists_decode_iff, wellFormedWord_iff, opLe, opIs, opIs, opIs, opIs, opIs]
  simp only [List.mem_cons, List.not_mem_nil, or_false]
  rfl

/-! ### The match and mask table -/

/-- A mask of 1s from bit `k` up clears the bits below. -/
theorem toNat_and_allOnes_shiftLeft (w : Word) (k : Nat) :
    (w &&& (BitVec.allOnes 32 <<< k)).toNat = w.toNat / 2 ^ k * 2 ^ k := by
  have masked : w &&& (BitVec.allOnes 32 <<< k) = w >>> k <<< k := by
    refine BitVec.eq_of_getLsbD_eq fun i hi => ?_
    rw [BitVec.getLsbD_and, BitVec.getLsbD_shiftLeft, BitVec.getLsbD_shiftLeft, BitVec.getLsbD_ushiftRight,
      BitVec.getLsbD_allOnes]
    by_cases low : i < k
    · simp [low]
    · simp [low, hi, show k + (i - k) = i by omega, show i - k < 32 by omega]
  have fits : w.toNat / 2 ^ k * 2 ^ k < 2 ^ 32 := (Nat.div_mul_le_self _ _).trans_lt w.isLt
  rw [masked, BitVec.toNat_shiftLeft, BitVec.toNat_ushiftRight, Nat.shiftLeft_eq, Nat.shiftRight_eq_div_pow,
    Nat.mod_eq_of_lt fits]

/-- A row whose operand has `k` bits matches where OP is the row's, RSV is 0, and so is DATA above the operand
(30_encoding.md R115). -/
theorem matchesWord_iff_fields {r : EncodingRow} {op : BitVec 4} {k : Nat} (widths : k ∈ [0, 8, 9, 16])
    (mask : r.mask = BitVec.allOnes 32 <<< k) (pattern : r.pattern = op.zeroExtend 32 <<< 28) (w : Word) :
    r.matchesWord w = true ↔ rsvField w = 0 ∧ opField w = op ∧ w.extractLsb' k (16 - k) = 0 := by
  have := op.isLt
  rw [EncodingRow.matchesWord, beq_iff_eq, mask, pattern]
  simp only [← BitVec.toNat_inj, toNat_and_allOnes_shiftLeft, rsvField, opField, BitVec.extractLsb'_toNat,
    BitVec.toNat_shiftLeft, BitVec.truncate_eq_setWidth, BitVec.toNat_setWidth, Nat.shiftRight_eq_div_pow,
    Nat.shiftLeft_eq]
  simp only [List.mem_cons, List.not_mem_nil, or_false] at widths
  obtain rfl | rfl | rfl | rfl := widths <;> simp <;> omega

/-- A row of the table matches exactly the words that decode to its command (30_encoding.md R113, R115). -/
theorem matchesWord_iff_decode {r : EncodingRow} (listed : r ∈ encodingRows) (w : Word) :
    r.matchesWord w = true ↔ ∃ i, decode w = .ok i ∧ mnemonic i = r.mnemonic := by
  simp only [decode_eq_ok_iff, and_assoc, exists_and_left]
  simp only [encodingRows, List.mem_cons, List.not_mem_nil, or_false] at listed
  obtain rfl | rfl | rfl | rfl | rfl | rfl := listed
  · refine (matchesWord_iff_fields (op := 0x0) (k := 0) (by decide) (by decide) (by decide) w).trans
      (and_congr_right fun _ => ⟨fun ⟨op, bare⟩ => ⟨_, .nop op bare, rfl⟩, ?_⟩)
    rintro ⟨_, _ | _, h⟩ <;> simp_all [mnemonic, dataField]
  · refine (matchesWord_iff_fields (op := 0x1) (k := 16) (by decide) (by decide) (by decide) w).trans
      (and_congr_right fun _ => ⟨fun ⟨op, _⟩ => ⟨_, .sample op, rfl⟩, ?_⟩)
    rintro ⟨_, _ | _, h⟩ <;> simp_all [mnemonic, BitVec.of_length_zero]
  · refine (matchesWord_iff_fields (op := 0x2) (k := 8) (by decide) (by decide) (by decide) w).trans
      (and_congr_right fun _ => ⟨fun ⟨op, high⟩ => ⟨_, .byte op high, rfl⟩, ?_⟩)
    rintro ⟨_, _ | _, h⟩ <;> simp_all [mnemonic, byteHighField]
  · refine (matchesWord_iff_fields (op := 0x3) (k := 0) (by decide) (by decide) (by decide) w).trans
      (and_congr_right fun _ => ⟨fun ⟨op, bare⟩ => ⟨_, .eos op bare, rfl⟩, ?_⟩)
    rintro ⟨_, _ | _, h⟩ <;> simp_all [mnemonic, dataField]
  · refine (matchesWord_iff_fields (op := 0x4) (k := 0) (by decide) (by decide) (by decide) w).trans
      (and_congr_right fun _ => ⟨fun ⟨op, bare⟩ => ⟨_, .reset op bare, rfl⟩, ?_⟩)
    rintro ⟨_, _ | _, h⟩ <;> simp_all [mnemonic, dataField]
  · refine (matchesWord_iff_fields (op := 0x5) (k := 9) (by decide) (by decide) (by decide) w).trans
      (and_congr_right fun _ => ⟨fun ⟨op, high⟩ => ⟨_, .read op high, rfl⟩, ?_⟩)
    rintro ⟨_, _ | _, h⟩ <;> simp_all [mnemonic, addrHighField]

/-- Settles O4: the rows that match are those named after the word's command, and the names are distinct. -/
theorem wellFormedWordMatchesOneEncodingRow : Obligations.WellFormedWordMatchesOneEncodingRow := by
  intro w
  refine ⟨fun i decoded => ?_, fun e illegal => ?_⟩
  · have named : encodingRows.filter (fun r => r.matchesWord w)
        = encodingRows.filter (fun r => decide (mnemonic i = r.mnemonic)) := by
      refine List.filter_congr fun r listed => ?_
      rw [Bool.eq_iff_iff, matchesWord_iff_decode listed, decide_eq_true_iff]
      simp [decoded]
    rw [named]
    cases i <;> rfl
  · refine List.filter_eq_nil_iff.mpr fun r listed => ?_
    rw [matchesWord_iff_decode listed, illegal]
    simp

end Sys2Proof.Machine

/-! What one step can do, said once: the input it serves, the effect of a command, the effect of a sample. -/

namespace Sys2Proof.Machine

/-! ### SAMPLE_STEP -/

/-- The timing registers of a passed sample after the wrap (42_timing_recovery.md R193). -/
def wrappedTiming (x : BitVec 16) (s : State) : Timing :=
  { dbit := decisionOf x s, phase := fSub (phaseBeforeWrap x s) fOne }

/-- What SAMPLE_STEP can leave while running (45_session_driver.md R270 to R272). -/
inductive SampleEffect (x : BitVec 16) (s : State) : State → Prop where
  | leadingZero (unstarted : s.session.started = false) (zero : x = 0) : SampleEffect x s s
  | silence (started : s.session.started = true) (zero : x = 0) (atLimit : s.session.zrun = 999) :
      SampleEffect x s (terminate .silenceTimeout (setGate true 1000 s))
  | noCell (passes : gatePasses x s) (within : fGt (phaseBeforeWrap x s) fOne = false) :
      SampleEffect x s (beforeWrap x s)
  | cell (passes : gatePasses x s) (past : fGt (phaseBeforeWrap x s) fOne = true) :
      SampleEffect x s (cellEvent (decisionOf x s) { beforeWrap x s with timing := wrappedTiming x s })

/-- Only the zero after a run of 999 completes a run of SILENCE_LIMIT (45_session_driver.md R271). -/
theorem zrun_succ_eq_silenceLimit_iff (z : BitVec 10) : (z + 1).toNat = silenceLimit ↔ z = 999 := by
  rw [silenceLimit]
  bv_omega

/-- The phase of `advancedTiming` is PHASE before the wrap test, whatever the gate wrote. -/
theorem advancedTiming_eq (x : BitVec 16) (s : State) :
    advancedTiming (sampleDecision x s) s = { dbit := decisionOf x s, phase := phaseBeforeWrap x s } := by
  have decided : sampleDecision x s = decisionOf x s := rfl
  unfold advancedTiming transition phaseBeforeWrap advance
  rw [decided]
  by_cases same : decisionOf x s = s.timing.dbit
  · simp [same]
  · simp [same, fHalf]

/-- The pipeline after a gate that passed the sample (45_session_driver.md R272). -/
theorem pipeline_effect {x : BitVec 16} {s : State} (passes : gatePasses x s) :
    SampleEffect x s (pipeline x (setGate true (zrunAfter x s) s)) := by
  have advanced : { setGate true (zrunAfter x s) s with
      corr := pushedCorrelator x s
      timing := advancedTiming (sampleDecision x s) s } = beforeWrap x s := by
    rw [advancedTiming_eq]
    rfl
  have wrapped : pipeline x (setGate true (zrunAfter x s) s) = wrap (decisionOf x s) (beforeWrap x s) :=
    congrArg (wrap (decisionOf x s)) advanced
  rw [wrapped]
  obtain ⟨within, same⟩ | ⟨past, cell⟩ := wrap_cases (decisionOf x s) (beforeWrap x s)
  · rw [same]
    exact .noCell passes within
  · rw [cell]
    exact .cell passes past

/-- SAMPLE_STEP while running has one of the four effects (45_session_driver.md R270 to R272). -/
theorem sampleStep_effect (x : BitVec 16) {s : State} (running : s.session.res = .running) :
    SampleEffect x s (sampleStep x s) := by
  rw [sampleStep_running x running]
  obtain ⟨unstarted, zero, gate⟩ | ⟨sound, gate⟩ | ⟨started, zero, limit, gate⟩ | ⟨started, zero, below, gate⟩ :=
    silenceGate_cases x s
  · rw [gate]
    exact .leadingZero unstarted zero
  · have zrun : zrunAfter x s = 0 := if_neg sound
    have effect := pipeline_effect (x := x) (s := s) (.inl sound)
    rw [gate]
    rwa [zrun] at effect
  · have atLimit := (zrun_succ_eq_silenceLimit_iff _).mp limit
    rw [gate, atLimit]
    exact .silence started zero atLimit
  · have zrun : zrunAfter x s = s.session.zrun + 1 := if_pos zero
    have notLast : s.session.zrun.toNat ≠ 999 := fun h =>
      below ((zrun_succ_eq_silenceLimit_iff _).mpr (BitVec.eq_of_toNat_eq h))
    have effect := pipeline_effect (x := x) (s := s) (.inr ⟨started, notLast⟩)
    rw [gate]
    rwa [zrun] at effect

/-! ### One command -/

/-- The state with no byte pending. -/
def unpaired (s : State) : State := setPair false s.session.lobyte s

theorem unpaired_of_not_pending {s : State} (idle : s.session.pend = false) : unpaired s = s := by
  rw [unpaired, setPair, ← idle]

/-- What a command can leave (46_host_commands.md R302 to R310). -/
inductive ExecEffect (s : State) : Instr → State → Prop where
  | answered {i : Instr} (w : Word) (keeps : i ≠ .reset) : ExecEffect s i (respond w s)
  | rejected (x : BitVec 16) (running : s.session.res = .running) (pending : s.session.pend = true) :
      ExecEffect s (.sample x) (reject (encode (.sample x)) s)
  | latched (b : Byte) (running : s.session.res = .running) :
      ExecEffect s (.byte b) (respond 0 (setPair true b s))
  | ended (running : s.session.res = .running) : ExecEffect s .eos (respond 0 (endOfStream s))
  | reset : ExecEffect s .reset (respond 0 (resetAll s))
  | sampled {i : Instr} (x : BitVec 16) (running : s.session.res = .running) (keeps : i ≠ .reset) :
      ExecEffect s i (respond 0 (sampleStep x (unpaired s)))

/-- Every command has one of the effects (46_host_commands.md R302 to R310). -/
theorem exec_effect {i : Instr} {s t : State} (runs : exec i s = .next t) : ExecEffect s i t := by
  cases i with
  | nop =>
    cases (exec_nop s).symm.trans runs
    exact .answered 0 nofun
  | read a =>
    cases (exec_read a s).symm.trans runs
    exact .answered _ nofun
  | reset =>
    cases (exec_reset s).symm.trans runs
    exact .reset
  | eos =>
    by_cases running : s.session.res = .running
    · cases (exec_eos_running running).symm.trans runs
      exact .ended running
    · cases (exec_eos_terminal running).symm.trans runs
      exact .answered 0 nofun
  | byte b =>
    by_cases running : s.session.res = .running
    · cases (exec_byte_running running b).symm.trans runs
      cases pend : s.session.pend with
      | false =>
        rw [byteIn_first pend]
        exact .latched b running
      | true =>
        rw [byteIn_second pend]
        exact .sampled _ running nofun
    · cases (exec_byte_terminal running b).symm.trans runs
      exact .answered 0 nofun
  | sample x =>
    by_cases running : s.session.res = .running
    · cases pend : s.session.pend with
      | false =>
        cases (exec_sample_running running pend x).symm.trans runs
        have effect := ExecEffect.sampled (i := .sample x) x running nofun
        rwa [unpaired_of_not_pending pend] at effect
      | true =>
        cases (exec_sample_pending running pend x).symm.trans runs
        exact .rejected x running pend
    · cases (exec_sample_terminal running x).symm.trans runs
      exact .answered 0 nofun

/-! ### One step -/

/-- What a step can serve: nothing, a word that is no command, a command, a pulse of `rst`
(46_host_commands.md R301, 70_reset_and_hazards.md R380). -/
inductive StepEffect (s : State) : State → Prop where
  | idle (none : s.input = []) : StepEffect s s
  | illegal (w : Word) (rest : List Input) (oldest : s.input = .command w :: rest)
      (malformed : wellFormedWord w = false) : StepEffect s (reject w { s with input := rest })
  | command (i : Instr) (rest : List Input) (t : State) (oldest : s.input = .command (encode i) :: rest)
      (effect : ExecEffect { s with input := rest } i t) : StepEffect s t
  | rst (rest : List Input) (oldest : s.input = .rst :: rest) : StepEffect s (resetAll { s with input := rest })

/-- A step that answers a next state runs on a legal configuration (00_scope.md R8). -/
theorem legal_of_step {s t : State} (steps : step s = .next t) : s.cfg.legal = true := by
  by_contra illegal
  rw [step, if_neg illegal] at steps
  cases steps

/-- Every step has one of the effects. -/
theorem step_effect {s t : State} (steps : step s = .next t) : StepEffect s t := by
  have legal := legal_of_step steps
  cases oldest : s.input with
  | nil =>
    rw [step, if_pos legal, serveInput, oldest] at steps
    cases steps
    exact .idle oldest
  | cons x rest =>
    cases x with
    | rst =>
      rw [step, if_pos legal, serveInput, oldest] at steps
      cases steps
      exact .rst rest oldest
    | command w =>
      rw [step_command legal oldest] at steps
      cases decoded : decode w with
      | ok i =>
        rw [serveCommand_of_ok decoded] at steps
        rw [decode_eq_ok_iff_encode] at decoded
        exact .command i rest t (decoded ▸ oldest) (exec_effect steps)
      | error e =>
        rw [serveCommand_of_error decoded] at steps
        cases steps
        exact .illegal w rest oldest (wellFormedWord_of_error decoded)

/-- On a legal configuration every step answers a next state (60_exceptions.md R346). -/
theorem exists_step {s : State} (legal : s.cfg.legal = true) : ∃ t, step s = .next t := by
  cases oldest : s.input with
  | nil => exact ⟨s, by rw [step, if_pos legal, serveInput, oldest]⟩
  | cons x rest =>
    cases x with
    | rst => exact ⟨_, by rw [step, if_pos legal, serveInput, oldest]; rfl⟩
    | command w =>
      rw [step_command legal oldest]
      cases decoded : decode w with
      | ok i =>
        rw [serveCommand_of_ok decoded]
        exact exec_next i _
      | error e => exact ⟨_, serveCommand_of_error decoded _⟩

/-- The RESET command's word. -/
theorem encode_eq_reset_iff (i : Instr) : encode i = 0x40000000 ↔ i = .reset := by
  rw [← show encode .reset = 0x40000000 by decide]
  refine ⟨fun same => ?_, congrArg encode⟩
  have decoded := decodeOfEncodeIsIdentity i
  rw [same, decodeOfEncodeIsIdentity .reset] at decoded
  cases decoded
  rfl

end Sys2Proof.Machine

/-! What a Data cell can do to the assembler, and the byte it may store. -/

namespace Sys2Proof.Machine

/-! ### STORE_BYTE -/

/-- The assembler after STORE_BYTE has taken the byte, the second byte fixing the length
(44_nibble_byte_assembler.md R245, R246). -/
def storedAssembler (v : Byte) (m : Assembler) : Assembler :=
  if m.bcnt + 1 = 2 then
    lengthFields (rawLength (Memory.read (appendByte v m).pay 0) (Memory.read (appendByte v m).pay 1)) (appendByte v m)
  else appendByte v m

section
variable (v : Byte) (m : Assembler)

theorem storedAssembler_of_not_second {m : Assembler} (other : m.bcnt + 1 ≠ 2) :
    storedAssembler v m = appendByte v m := if_neg other

theorem storedAssembler_of_second {m : Assembler} (second : m.bcnt + 1 = 2) :
    storedAssembler v m =
      lengthFields (rawLength (Memory.read (appendByte v m).pay 0) (Memory.read (appendByte v m).pay 1))
        (appendByte v m) := if_pos second

/-- The fields that STORE_BYTE writes whichever byte it takes. -/
theorem storedAssembler_eq :
    storedAssembler v m = { appendByte v m with
      rawlen := (storedAssembler v m).rawlen
      declen := (storedAssembler v m).declen
      lenv := (storedAssembler v m).lenv
      lenco := (storedAssembler v m).lenco } := by
  by_cases second : m.bcnt + 1 = 2
  · rw [storedAssembler_of_second v second, lengthFields_eq]
  · rw [storedAssembler_of_not_second v second]

@[simp] theorem storedAssembler_pay : (storedAssembler v m).pay = Memory.write m.pay m.bcnt.toNat v := by
  rw [storedAssembler_eq]; rfl
@[simp] theorem storedAssembler_bcnt : (storedAssembler v m).bcnt = m.bcnt + 1 := by
  rw [storedAssembler_eq]; rfl
@[simp] theorem storedAssembler_nbc : (storedAssembler v m).nbc = m.nbc := by
  rw [storedAssembler_eq]; rfl
@[simp] theorem storedAssembler_hv : (storedAssembler v m).hv = m.hv := by
  rw [storedAssembler_eq]; rfl
@[simp] theorem storedAssembler_invn : (storedAssembler v m).invn = m.invn := by
  rw [storedAssembler_eq]; rfl
@[simp] theorem storedAssembler_invcnt : (storedAssembler v m).invcnt = m.invcnt := by
  rw [storedAssembler_eq]; rfl

end

/-- The test on the last line of STORE_BYTE (44_nibble_byte_assembler.md R245). -/
def frameDue (m : Assembler) : Prop := m.lenv = true ∧ m.bcnt.toNat = m.declen.toNat / 2

/-- What STORE_BYTE can leave as session `z` and assembler `m` (44_nibble_byte_assembler.md R245, R249). -/
inductive StoreEffect (v : Byte) (s : State) (z : Session) (m : Assembler) : Prop where
  | overflow (full : s.cfg.capacity ≤ s.assembler.bcnt.toNat) (assembler : m = s.assembler)
      (session : z = { s.session with res := .overflow, reslen := BitVec.ofNat 9 s.cfg.capacity })
  | stored (room : s.assembler.bcnt.toNat < s.cfg.capacity) (assembler : m = storedAssembler v s.assembler)
      (notDue : ¬ frameDue m) (session : z = s.session)
  | completed (room : s.assembler.bcnt.toNat < s.cfg.capacity) (assembler : m = storedAssembler v s.assembler)
      (due : frameDue m)
      (session : z = { s.session with res := if m.invn then .degraded else .success, reslen := m.bcnt })

theorem completeIfDue_of_due {s : State} (due : frameDue s.assembler) : completeIfDue s = complete s := by
  obtain ⟨known, last⟩ := due
  rw [completeIfDue, known, last]
  simp

theorem completeIfDue_of_not_due {s : State} (early : ¬ frameDue s.assembler) : completeIfDue s = s := by
  rw [completeIfDue, if_neg]
  simpa [frameDue] using early

/-- Before the completion test: with room the byte is stored, and session, configuration and framer stay. -/
theorem storeByte_of_room {s : State} (room : s.assembler.bcnt.toNat < s.cfg.capacity) (v : Byte) :
    ∃ u, storeByte v s = completeIfDue u ∧ u.assembler = storedAssembler v s.assembler ∧ u.session = s.session
      ∧ u.cfg = s.cfg ∧ u.framer = s.framer := by
  obtain ⟨full, -⟩ | ⟨-, other, stored⟩ | ⟨-, second, stored⟩ := storeByte_cases v s
  · omega
  · exact ⟨_, stored, (storedAssembler_of_not_second v other).symm, rfl, rfl, rfl⟩
  · refine ⟨_, stored, ?_, ?_, ?_, ?_⟩ <;> rw [lengthStep_eq rfl]
    exacts [(storedAssembler_of_second v second).symm, rfl, rfl, rfl]

theorem storeByte_effect (v : Byte) (s : State) :
    StoreEffect v s (storeByte v s).session (storeByte v s).assembler := by
  by_cases room : s.assembler.bcnt.toNat < s.cfg.capacity
  · obtain ⟨u, stored, assembler, session, -, -⟩ := storeByte_of_room room v
    rw [stored]
    by_cases due : frameDue u.assembler
    · rw [completeIfDue_of_due due, complete_eq]
      exact .completed room assembler due (by rw [← session])
    · rw [completeIfDue_of_not_due due]
      exact .stored room assembler due session
  · obtain ⟨full, overflows⟩ | ⟨room', -⟩ | ⟨room', -⟩ := storeByte_cases v s
    · rw [overflows, terminate_eq]
      exact .overflow full rfl rfl
    · exact absurd room' room
    · exact absurd room' room

@[simp] theorem completeIfDue_framer (s : State) : (completeIfDue s).framer = s.framer := by
  unfold completeIfDue
  split <;> rfl

/-- STORE_BYTE leaves the frame state machine. -/
@[simp] theorem storeByte_framer (v : Byte) (s : State) : (storeByte v s).framer = s.framer := by
  by_cases room : s.assembler.bcnt.toNat < s.cfg.capacity
  · obtain ⟨u, stored, -, -, -, framer⟩ := storeByte_of_room room v
    rw [stored, completeIfDue_framer, framer]
  · obtain ⟨-, overflows⟩ | ⟨room', -⟩ | ⟨room', -⟩ := storeByte_cases v s
    · rw [overflows, terminate_eq]
    · exact absurd room' room
    · exact absurd room' room

/-! ### ASSEMBLE_BIT -/

/-- The sixth line bit has been taken: NBC is 0, and an invalid symbol is counted (44_nibble_byte_assembler.md R240,
R241). -/
inductive SymbolTaken (m m' : Assembler) : Prop where
  | valid (reg : BitVec 6) (eq : m' = { m with nibreg := reg, nbc := 0 })
  | invalid (reg : BitVec 6) (eq : m' = { m with nibreg := reg, nbc := 0, invn := true, invcnt := m.invcnt + 1 })

/-- What a line bit can leave as session `z` and assembler `m`: a shift, a high nibble, or a byte stored
(44_nibble_byte_assembler.md R240 to R245). -/
inductive BitEffect (s : State) (z : Session) (m : Assembler) : Prop where
  | shifted (reg : BitVec 6) (early : s.assembler.nbc.toNat + 1 ≠ 6)
      (assembler : m = { s.assembler with nibreg := reg, nbc := s.assembler.nbc + 1 }) (session : z = s.session)
  | highNibble (m' : Assembler) (v : BitVec 4) (taken : SymbolTaken s.assembler m')
      (first : s.assembler.hv = false) (assembler : m = { m' with hinib := v, hv := true }) (session : z = s.session)
  | byte (u : State) (m' : Assembler) (v : Byte) (taken : SymbolTaken s.assembler m')
      (second : s.assembler.hv = true) (assembler : u.assembler = { m' with hv := false })
      (session : u.session = s.session) (cfg : u.cfg = s.cfg) (stored : StoreEffect v u z m)

theorem SymbolTaken.hv_eq {m m' : Assembler} (taken : SymbolTaken m m') : m'.hv = m.hv := by
  cases taken with
  | valid reg eq | invalid reg eq => rw [eq]

/-- The first nibble of a byte is kept (44_nibble_byte_assembler.md R243). -/
theorem nibbleIn_first {s : State} (first : s.assembler.hv = false) (v : BitVec 4) :
    nibbleIn v s = onAssembler (fun m => { m with hinib := v, hv := true }) s := by
  simp [nibbleIn, first]

/-- The second nibble of a byte completes it (44_nibble_byte_assembler.md R243). -/
theorem nibbleIn_second {s : State} (second : s.assembler.hv = true) (v : BitVec 4) :
    nibbleIn v s =
      storeByte (nibblePair s.assembler.hinib v) (onAssembler (fun m => { m with hv := false }) s) := by
  rw [nibbleIn, if_pos second]

/-- A nibble after the symbol that made it. -/
theorem nibbleIn_effect {s u : State} (v : BitVec 4) (taken : SymbolTaken s.assembler u.assembler)
    (session : u.session = s.session) (cfg : u.cfg = s.cfg) :
    BitEffect s (nibbleIn v u).session (nibbleIn v u).assembler := by
  have half := taken.hv_eq
  cases pending : u.assembler.hv with
  | false =>
    rw [nibbleIn_first pending]
    exact .highNibble u.assembler v taken (half ▸ pending) rfl session
  | true =>
    rw [nibbleIn_second pending]
    refine .byte _ u.assembler _ taken (half ▸ pending) ?_ ?_ ?_ (storeByte_effect _ _)
    exacts [rfl, session, cfg]

theorem assembleBit_effect (lb : BitVec 1) (s : State) :
    BitEffect s (assembleBit lb s).session (assembleBit lb s).assembler := by
  unfold assembleBit
  dsimp only
  split
  · unfold decodeSymbol
    split
    · exact nibbleIn_effect _ (.valid _ rfl) rfl rfl
    · exact nibbleIn_effect _ (.invalid _ rfl) rfl rfl
  · next early => exact .shifted _ early rfl rfl

theorem nibbleIn_framer (v : BitVec 4) (s : State) : (nibbleIn v s).framer = s.framer := by
  unfold nibbleIn
  split
  · exact storeByte_framer _ _
  · rfl

/-- A line bit leaves the frame state machine. -/
theorem assembleBit_framer (lb : BitVec 1) (s : State) : (assembleBit lb s).framer = s.framer := by
  unfold assembleBit
  dsimp only
  split
  · unfold decodeSymbol
    split <;> exact nibbleIn_framer _ _
  · rfl

/-! ### Cell events -/

/-- In Data a cell is ASSEMBLE_BIT and the CBIT update (43_frame_fsm.md R210, R215). -/
theorem cellEvent_of_data {s : State} (inData : s.framer.fstate = .data) (bit : Bool) :
    cellEvent bit s = onFramer (noteCell bit) (assembleBit (lineBit bit) s) := by
  simp only [cellEvent, frameStep, inData]
  rfl

/-- In CarrierSignal a cell is CARRIER_STEP and the CBIT update (43_frame_fsm.md R210). -/
theorem cellEvent_of_carrierSignal {s : State} (carrier : s.framer.fstate = .carrierSignal) (bit : Bool) :
    cellEvent bit s = { s with framer := noteCell bit (carrierStep bit s.framer) } := by
  simp only [cellEvent, frameStep, carrier]
  rfl

/-- A cell event before Data changes the frame state machine alone (43_frame_fsm.md R219). -/
theorem cellEvent_before_data {s : State} (before : s.framer.fstate ≠ .data) (bit : Bool) :
    ∃ f, cellEvent bit s = { s with framer := f } := by
  cases state : s.framer.fstate with
  | channelSeize => exact ⟨_, cellEvent_of_channelSeize state bit⟩
  | carrierSignal => exact ⟨_, cellEvent_of_carrierSignal state bit⟩
  | sync => exact ⟨_, cellEvent_of_sync state bit⟩
  | data => exact absurd state before

/-- A cell event changes session and assembler as a line bit does, or not at all. -/
theorem cellEvent_effect (bit : Bool) (s : State) :
    ((cellEvent bit s).session = s.session ∧ (cellEvent bit s).assembler = s.assembler)
      ∨ BitEffect s (cellEvent bit s).session (cellEvent bit s).assembler := by
  by_cases inData : s.framer.fstate = .data
  · have effect := assembleBit_effect (lineBit bit) s
    rw [cellEvent_of_data inData]
    exact .inr effect
  · obtain ⟨f, only⟩ := cellEvent_before_data inData bit
    rw [only]
    exact .inl ⟨rfl, rfl⟩

end Sys2Proof.Machine

/-! The invariants of 10_state.md: what every stage keeps, every step keeps. -/

namespace Sys2Proof.Machine

/-! ### From stages to steps -/

/-- `P` says nothing of events, draws and ports, and every stage that a command runs keeps it. -/
structure KeptByStages (P : State → Prop) : Prop where
  ports {s : State} (events : Events) (draws : Nat) (input : List Input) (resp : List Word) (h : P s) :
    P { s with events := events, draws := draws, input := input, resp := resp }
  reset {s : State} (legal : s.cfg.legal = true) (h : P s) : P (resetAll s)
  pair {s : State} (pend : Bool) (lobyte : Byte) (running : s.session.res = .running) (h : P s) :
    P (setPair pend lobyte s)
  eos {s : State} (running : s.session.res = .running) (h : P s) : P (endOfStream s)
  sample {s t : State} {x : BitVec 16} (legal : s.cfg.legal = true) (running : s.session.res = .running)
    (idle : s.session.pend = false) (effect : SampleEffect x s t) (h : P s) : P t

theorem KeptByStages.exec {P : State → Prop} (kept : KeptByStages P) {i : Instr} {s t : State}
    (legal : s.cfg.legal = true) (effect : ExecEffect s i t) (h : P s) : P t := by
  cases effect with
  | answered w _ => exact kept.ports s.events s.draws s.input (s.resp ++ [w]) h
  | rejected x _ _ => exact kept.ports (s := s) (reject (encode (.sample x)) s).events s.draws s.input (s.resp ++ [0]) h
  | latched b running => exact kept.ports _ _ _ _ (kept.pair true b running h)
  | ended running => exact kept.ports _ _ _ _ (kept.eos running h)
  | reset => exact kept.ports _ _ _ _ (kept.reset legal h)
  | sampled x running _ =>
    have effect := sampleStep_effect x (s := unpaired s) running
    have paired : P (unpaired s) := kept.pair false s.session.lobyte running h
    exact kept.ports _ _ _ _ (kept.sample (s := unpaired s) legal running rfl effect paired)

/-- What every stage keeps, every step keeps. -/
theorem KeptByStages.step {P : State → Prop} (kept : KeptByStages P) {s t : State} (steps : step s = .next t)
    (h : P s) : P t := by
  have legal := legal_of_step steps
  have served (rest : List Input) : P { s with input := rest } := kept.ports s.events s.draws rest s.resp h
  cases step_effect steps with
  | idle _ => exact h
  | illegal w rest _ _ => exact kept.ports (s := s) (reject w s).events s.draws rest (s.resp ++ [0]) h
  | command i rest _ _ effect => exact kept.exec (s := { s with input := rest }) legal effect (served rest)
  | rst rest _ => exact kept.reset legal (served rest)

/-- A sample keeps `P` when its gate, its front end and its cell event do; the timing registers are left open. -/
theorem SampleEffect.keeps {P : State → Prop} {x : BitVec 16} {s t : State} (effect : SampleEffect x s t)
    (silence : s.session.started = true → s.session.zrun = 999 →
      P (terminate .silenceTimeout (setGate true 1000 s)))
    (front : gatePasses x s → ∀ timing, P { beforeWrap x s with timing := timing })
    (cell : ∀ u bit, u.session.res = s.session.res → u.session.pend = s.session.pend → P u → P (cellEvent bit u))
    (h : P s) : P t := by
  cases effect with
  | leadingZero _ _ => exact h
  | silence started _ atLimit => exact silence started atLimit
  | noCell passes _ => exact front passes (beforeWrap x s).timing
  | cell passes _ => exact cell _ _ rfl rfl (front passes _)

/-! ### The configuration -/

/-- No stage writes the parameters (00_scope.md R8). -/
theorem keptByStages_cfg (c : Config) : KeptByStages (fun s => s.cfg = c) where
  ports _ _ _ _ h := h
  reset _ h := h
  pair _ _ _ h := h
  eos _ h := h
  sample _ _ _ effect h :=
    effect.keeps (P := fun s => s.cfg = c) (fun _ _ => h) (fun _ _ => h)
      (fun _ _ _ _ hu => (cellEvent_cellFrame _ _).cfg.trans hu) h

/-- Settles O52. -/
theorem configurationNeverChanges : Obligations.ConfigurationNeverChanges := fun s _ steps =>
  (keptByStages_cfg s.cfg).step steps rfl

/-! ### Arrays and the payload -/

/-- CAPACITY is at most 256 (00_scope.md R8). -/
theorem capacity_le_of_legal {c : Config} (legal : c.legal = true) : c.capacity ≤ 256 := by
  simp only [Config.legal, Bool.and_eq_true, decide_eq_true_eq] at legal
  exact legal.1.1.1.2

/-- The correlation window is not empty (00_scope.md R8). -/
theorem window_pos_of_legal {c : Config} (legal : c.legal = true) : 0 < c.window := by
  simp only [Config.legal, Bool.and_eq_true, decide_eq_true_eq] at legal
  exact legal.1.1.2

/-- The payload part of `ArraysSized`. -/
structure PayloadSized (capacity : Nat) (m : Assembler) : Prop where
  canonical : m.pay.wf = true
  inCapacity : m.bcnt.toNat ≤ capacity
  blankAbove : ∀ a, m.bcnt.toNat ≤ a → Memory.read m.pay a = 0x00

theorem State.ArraysSized.payload {s : State} (sized : s.ArraysSized) :
    PayloadSized s.cfg.capacity s.assembler :=
  ⟨sized.payCanonical, sized.countInCapacity, sized.payBlankAbove⟩

/-- BCNT has room for the count of a byte that is stored (10_state.md R52). -/
theorem toNat_bcnt_succ {b : BitVec 9} (below : b.toNat < 256) : (b + 1).toNat = b.toNat + 1 := by
  bv_omega

/-- A stored byte fills the first blank address (44_nibble_byte_assembler.md R245). -/
theorem PayloadSized.stored {capacity : Nat} {m : Assembler} (sized : PayloadSized capacity m)
    (room : m.bcnt.toNat < capacity) (small : capacity ≤ 256) (v : Byte) :
    PayloadSized capacity (storedAssembler v m) := by
  have count := toNat_bcnt_succ (b := m.bcnt) (by omega)
  refine ⟨?_, ?_, fun a above => ?_⟩
  · rw [storedAssembler_pay]
    exact Memory.write_wf sized.canonical _ _
  · rw [storedAssembler_bcnt, count]
    exact room
  · rw [storedAssembler_bcnt, count] at above
    rw [storedAssembler_pay, Memory.read_write sized.canonical, if_neg (by omega)]
    exact sized.blankAbove a (by omega)

theorem SymbolTaken.payload {capacity : Nat} {m m' : Assembler} (taken : SymbolTaken m m')
    (sized : PayloadSized capacity m) : PayloadSized capacity m' := by
  cases taken with
  | valid reg eq | invalid reg eq => rw [eq]; exact ⟨sized.canonical, sized.inCapacity, sized.blankAbove⟩

theorem BitEffect.payload {s : State} {z : Session} {m : Assembler} (effect : BitEffect s z m)
    (small : s.cfg.capacity ≤ 256) (sized : PayloadSized s.cfg.capacity s.assembler) :
    PayloadSized s.cfg.capacity m := by
  cases effect with
  | shifted reg _ assembler _ => rw [assembler]; exact ⟨sized.canonical, sized.inCapacity, sized.blankAbove⟩
  | highNibble m' v taken _ assembler _ =>
    have sized' := taken.payload sized
    rw [assembler]
    exact ⟨sized'.canonical, sized'.inCapacity, sized'.blankAbove⟩
  | byte u m' v taken _ assembler _ cfg stored =>
    have sized' : PayloadSized u.cfg.capacity u.assembler := by
      have sized' := taken.payload sized
      rw [assembler, cfg]
      exact ⟨sized'.canonical, sized'.inCapacity, sized'.blankAbove⟩
    rw [← cfg] at small ⊢
    cases stored with
    | overflow _ assembler _ => rw [assembler]; exact sized'
    | stored room assembler _ _ | completed room assembler _ _ =>
      rw [assembler]
      exact sized'.stored room small v

theorem State.ArraysSized.initial {c : Config} (legal : c.legal = true) : (State.initial c).ArraysSized :=
  ⟨legal, List.length_replicate, window_pos_of_legal legal, rfl, Nat.zero_le _, fun _ _ => rfl⟩

/-- `ArraysSized` reads the configuration, the correlator and the payload only. -/
theorem State.ArraysSized.of_eq {s t : State} (sized : s.ArraysSized) (cfg : t.cfg = s.cfg) (corr : t.corr = s.corr)
    (payload : PayloadSized s.cfg.capacity t.assembler) : t.ArraysSized :=
  ⟨cfg ▸ sized.legal, by rw [cfg, corr]; exact sized.ringLength, by rw [cfg, corr]; exact sized.cursorInRing,
    payload.canonical, by rw [cfg]; exact payload.inCapacity, payload.blankAbove⟩

/-- RING_PUSH keeps the ring's length and the cursor in the ring (40_correlator.md R154). -/
theorem State.ArraysSized.front {s : State} (sized : s.ArraysSized) (x : BitVec 16) (timing : Timing) :
    { beforeWrap x s with timing := timing }.ArraysSized where
  legal := sized.legal
  ringLength := List.length_set.trans sized.ringLength
  cursorInRing := Nat.mod_lt _ (window_pos_of_legal sized.legal)
  payCanonical := sized.payCanonical
  countInCapacity := sized.countInCapacity
  payBlankAbove := sized.payBlankAbove

theorem State.ArraysSized.cell {s : State} (sized : s.ArraysSized) (bit : Bool) : (cellEvent bit s).ArraysSized := by
  have frame := cellEvent_cellFrame bit s
  refine sized.of_eq frame.cfg frame.corr ?_
  obtain ⟨-, same⟩ | effect := cellEvent_effect bit s
  · rw [same]
    exact sized.payload
  · exact effect.payload (capacity_le_of_legal sized.legal) sized.payload

theorem keptByStages_arraysSized : KeptByStages State.ArraysSized where
  ports _ _ _ _ h := h.of_eq rfl rfl h.payload
  reset legal _ := (State.ArraysSized.initial legal).of_eq rfl rfl (State.ArraysSized.initial legal).payload
  pair _ _ _ h := h.of_eq rfl rfl h.payload
  eos _ h := h.of_eq rfl rfl h.payload
  sample _ _ _ effect h :=
    effect.keeps (fun _ _ => h.of_eq rfl rfl h.payload) (fun _ timing => h.front _ timing)
      (fun _ bit _ _ hu => hu.cell bit) h

/-- Settles O44. -/
theorem stepKeepsArraysSized : Obligations.StepKeepsArraysSized := fun _ _ sized steps =>
  keptByStages_arraysSized.step steps sized

/-! ### The frame state machine -/

theorem State.FrameSane.initial (c : Config) : (State.initial c).FrameSane :=
  ⟨nofun, Nat.zero_le _, fun _ => rfl, fun _ => rfl, nofun, nofun, fun _ => rfl⟩

/-- `FrameSane` reads the frame state machine, the assembler and the configuration only. -/
theorem State.FrameSane.of_eq {s t : State} (sane : s.FrameSane) (framer : t.framer = s.framer)
    (assembler : t.assembler = s.assembler) (cfg : t.cfg = s.cfg) : t.FrameSane := by
  obtain ⟨noCarrier, small, seizing, regSeizing, regSearching, regData, idle⟩ := sane
  constructor <;> simpa only [framer, assembler, cfg]

/-- SEIZE_STEP counts to 30 at most and enters Sync with the count cleared (43_frame_fsm.md R212). -/
theorem seizeStep_cases (f : Framer) (bit : Bool) :
    (∃ c : BitVec 5, c.toNat ≤ 30 ∧ seizeStep bit f = { f with cnt := c })
      ∨ seizeStep bit f = { f with fstate := .sync, cnt := 0 } := by
  by_cases repeated : bit = f.cbit
  · subst repeated
    exact .inl ⟨0, Nat.zero_le _, seizeStep_repeat f⟩
  · obtain rfl : bit = !f.cbit := Bool.eq_not.mpr repeated
    rw [seizeStep_flip]
    split
    · exact .inr rfl
    · next within => exact .inl ⟨_, not_lt.mp within, rfl⟩

theorem State.FrameSane.cell {s : State} (sane : s.FrameSane) (bit : Bool) : (cellEvent bit s).FrameSane := by
  cases state : s.framer.fstate with
  | carrierSignal => exact absurd state sane.noCarrier
  | channelSeize =>
    have untouched := sane.assemblerIdle (by rw [state]; nofun)
    have register := sane.syncRegSeizing state
    rw [cellEvent_of_channelSeize state]
    obtain ⟨c, small, counted⟩ | synced := seizeStep_cases s.framer bit
    · rw [counted]
      exact ⟨sane.noCarrier, small, fun other => absurd state other, fun _ => register,
        fun other => (nomatch state.symm.trans other), fun other => (nomatch state.symm.trans other),
        fun _ => untouched⟩
    · rw [synced]
      exact ⟨nofun, Nat.zero_le _, fun _ => rfl, nofun, fun _ => by simp [noteCell, register], nofun,
        fun _ => untouched⟩
  | sync =>
    have untouched := sane.assemblerIdle (by rw [state]; nofun)
    have cleared := sane.countOnlySeizing (by rw [state]; nofun)
    rw [cellEvent_of_sync state]
    unfold syncStep
    dsimp only
    split
    · next found =>
      exact ⟨nofun, sane.countSmall, fun _ => cleared, nofun, nofun, fun _ => found, fun other => absurd rfl other⟩
    · next searching =>
      exact ⟨sane.noCarrier, sane.countSmall, fun _ => cleared, fun other => (nomatch state.symm.trans other),
        fun _ => searching, fun other => (nomatch state.symm.trans other), fun _ => untouched⟩
  | data =>
    rw [cellEvent_of_data state]
    have framer := assembleBit_framer (lineBit bit) s
    have state' : (assembleBit (lineBit bit) s).framer.fstate = .data := by rw [framer, state]
    have cleared := sane.countOnlySeizing (by rw [state]; nofun)
    have register := sane.syncRegData state
    rw [← framer] at cleared register
    refine ⟨?_, ?_, fun _ => cleared, ?_, ?_, fun _ => register, fun other => absurd state' other⟩
    · exact fun other => (nomatch state'.symm.trans other)
    · rw [onFramer_framer, noteCell, cleared]
      exact Nat.zero_le _
    · exact fun other => (nomatch state'.symm.trans other)
    · exact fun other => (nomatch state'.symm.trans other)

theorem keptByStages_frameSane : KeptByStages State.FrameSane where
  ports _ _ _ _ h := h.of_eq rfl rfl rfl
  reset _ _ := (State.FrameSane.initial _).of_eq rfl rfl rfl
  pair _ _ _ h := h.of_eq rfl rfl rfl
  eos _ h := h.of_eq rfl rfl rfl
  sample _ _ _ effect h :=
    effect.keeps (fun _ _ => h.of_eq rfl rfl rfl) (fun _ _ => h.of_eq rfl rfl rfl) (fun _ bit _ _ hu => hu.cell bit) h

/-- Settles O45. -/
theorem stepKeepsFrameSane : Obligations.StepKeepsFrameSane := fun _ _ sane steps =>
  keptByStages_frameSane.step steps sane

end Sys2Proof.Machine

/-! The length registers, the invalid-symbol count and the session's outcome, kept by every step. -/

namespace Sys2Proof.Machine

/-! ### The length registers -/

/-- The length part of `AssemblerSane` (44_nibble_byte_assembler.md R246). -/
structure HeaderSane (m : Assembler) : Prop where
  known : m.lenv = decide (2 ≤ m.bcnt.toNat)
  unset : m.lenv = false → m.rawlen = 0 ∧ m.declen = 0 ∧ m.lenco = false
  raw : m.lenv = true →
    m.rawlen.toNat = 2 * ((Memory.read m.pay 0).toNat * 256 + (Memory.read m.pay 1).toNat) + 4
  declared : m.lenv = true → m.declen = if m.rawlen = 292 then 292 else 288
  coerced : m.lenv = true → m.lenco = decide (m.rawlen ≠ 292)

theorem State.AssemblerSane.header {s : State} (sane : s.AssemblerSane) : HeaderSane s.assembler :=
  ⟨sane.lengthKnown, sane.lengthUnset, sane.rawLength, sane.declaredLength, sane.coercionFlag⟩

/-- RAWLEN is 292 exactly where the length is (10_state.md R53). -/
theorem ofNat_rawLength_eq_iff (a b : Byte) : BitVec.ofNat 18 (rawLength a b) = 292 ↔ rawLength a b = 292 := by
  rw [← BitVec.toNat_inj, BitVec.toNat_ofNat, Nat.mod_eq_of_lt (rawLength_lt a b)]
  rfl

/-- The second byte sets the length registers from the header (44_nibble_byte_assembler.md R246). -/
theorem HeaderSane.stored_second {m : Assembler} (header : HeaderSane m) (second : m.bcnt + 1 = 2) (v : Byte) :
    HeaderSane (storedAssembler v m) := by
  have one : m.bcnt.toNat = 1 := by bv_omega
  have unset := header.unset (by rw [header.known, one]; rfl)
  rw [storedAssembler_of_second v second, lengthFields_eq]
  refine ⟨?_, nofun, fun _ => ?_, fun _ => ?_, fun _ => ?_⟩
  · simp only [appendByte, second]
    rfl
  · rw [← rawLength_eq]
    exact Nat.mod_eq_of_lt (rawLength_lt _ _)
  · simp only [ofNat_rawLength_eq_iff]
  · simp only [ofNat_rawLength_eq_iff, ne_eq, appendByte, unset]
    split <;> simp_all

/-- Any other byte leaves them and the header (44_nibble_byte_assembler.md R245). -/
theorem HeaderSane.stored_other {m : Assembler} (header : HeaderSane m) (canonical : m.pay.wf = true)
    (small : m.bcnt.toNat < 256) (other : m.bcnt + 1 ≠ 2) (v : Byte) : HeaderSane (storedAssembler v m) := by
  have notOne : m.bcnt.toNat ≠ 1 := fun h => other (by bv_omega)
  have known := header.known
  have below {a : Nat} (known : m.lenv = true) (ha : a < 2) : a ≠ m.bcnt.toNat := by
    have atLeast := of_decide_eq_true (header.known.symm.trans known)
    omega
  rw [storedAssembler_of_not_second v other]
  refine ⟨?_, header.unset, fun known => ?_, header.declared, header.coerced⟩
  · simp only [appendByte, known, toNat_bcnt_succ small, decide_eq_decide]
    omega
  · simp only [appendByte, Memory.read_write canonical, if_neg (below known Nat.zero_lt_two),
      if_neg (below known Nat.one_lt_two)]
    exact header.raw known

theorem HeaderSane.stored {capacity : Nat} {m : Assembler} (header : HeaderSane m) (sized : PayloadSized capacity m)
    (room : m.bcnt.toNat < capacity) (small : capacity ≤ 256) (v : Byte) : HeaderSane (storedAssembler v m) := by
  by_cases second : m.bcnt + 1 = 2
  · exact header.stored_second second v
  · exact header.stored_other sized.canonical (by omega) second v

theorem SymbolTaken.header {m m' : Assembler} (taken : SymbolTaken m m') (header : HeaderSane m) :
    HeaderSane m' := by
  cases taken with
  | valid reg eq | invalid reg eq => rw [eq]; exact { header with }

theorem BitEffect.header {s : State} {z : Session} {m : Assembler} (effect : BitEffect s z m)
    (small : s.cfg.capacity ≤ 256) (sized : PayloadSized s.cfg.capacity s.assembler)
    (header : HeaderSane s.assembler) : HeaderSane m := by
  cases effect with
  | shifted reg _ assembler _ => rw [assembler]; exact { header with }
  | highNibble m' v taken _ assembler _ => rw [assembler]; exact { taken.header header with }
  | byte u m' v taken _ assembler _ cfg stored =>
    have header' : HeaderSane u.assembler := by rw [assembler]; exact { taken.header header with }
    have sized' : PayloadSized u.cfg.capacity u.assembler := by
      rw [assembler, cfg]
      exact { taken.payload sized with }
    cases stored with
    | overflow _ assembler _ => rw [assembler]; exact header'
    | stored room assembler _ _ | completed room assembler _ _ =>
      rw [assembler]
      exact header'.stored sized' room (cfg ▸ small) v

/-! ### The invalid-symbol count -/

/-- How many nibbles of the payload are in. -/
def nibbleCount (m : Assembler) : Nat := 2 * m.bcnt.toNat + if m.hv then 1 else 0

/-- A symbol adds at most one to INVCNT, and INVN stays true to it (44_nibble_byte_assembler.md R241). -/
theorem SymbolTaken.invalid_le {m m' : Assembler} (taken : SymbolTaken m m') (room : m.invcnt.toNat < 1023)
    (flag : m.invn = decide (m.invcnt ≠ 0)) :
    m'.invcnt.toNat ≤ m.invcnt.toNat + 1 ∧ m'.invn = decide (m'.invcnt ≠ 0) := by
  cases taken with
  | valid reg eq => rw [eq]; exact ⟨Nat.le_succ _, flag⟩
  | invalid reg eq =>
    have count : (m.invcnt + 1).toNat = m.invcnt.toNat + 1 := by bv_omega
    have nonzero : m.invcnt + 1 ≠ 0 := by bv_omega
    rw [eq]
    exact ⟨count.le, (decide_eq_true nonzero).symm⟩

theorem SymbolTaken.counters {m m' : Assembler} (taken : SymbolTaken m m') :
    m'.nbc = 0 ∧ m'.hv = m.hv ∧ m'.bcnt = m.bcnt := by
  cases taken with
  | valid reg eq | invalid reg eq => rw [eq]; exact ⟨rfl, rfl, rfl⟩

/-- What a line bit does to the counters of a running session: INVCNT counts at most the nibbles that are in, and one
more where the byte found no room. -/
theorem BitEffect.counters {s : State} {z : Session} {m : Assembler} (effect : BitEffect s z m)
    (small : s.cfg.capacity ≤ 256) (inCapacity : s.assembler.bcnt.toNat ≤ s.cfg.capacity)
    (symbolCount : s.assembler.nbc.toNat ≤ 5) (flag : s.assembler.invn = decide (s.assembler.invcnt ≠ 0))
    (count : s.assembler.invcnt.toNat ≤ nibbleCount s.assembler) :
    m.nbc.toNat ≤ 5 ∧ m.invn = decide (m.invcnt ≠ 0)
      ∧ (m.invcnt.toNat ≤ nibbleCount m ∨ z.res = .overflow ∧ m.invcnt.toNat ≤ 2 * (s.cfg.capacity + 1)) := by
  have room : s.assembler.invcnt.toNat < 1023 := by
    unfold nibbleCount at count
    split at count <;> omega
  cases effect with
  | shifted reg early assembler _ =>
    rw [assembler]
    exact ⟨by bv_omega, flag, .inl count⟩
  | highNibble m' v taken first assembler _ =>
    obtain ⟨countLe, flag'⟩ := taken.invalid_le room flag
    obtain ⟨nbc, -, bcnt⟩ := taken.counters
    rw [assembler]
    refine ⟨by rw [nbc]; decide, flag', .inl ?_⟩
    simp only [nibbleCount, first, bcnt] at count ⊢
    grind
  | byte u m' v taken second assembler _ cfg stored =>
    obtain ⟨countLe, flag'⟩ := taken.invalid_le room flag
    obtain ⟨nbc, -, bcnt⟩ := taken.counters
    simp only [nibbleCount, second] at count
    cases stored with
    | overflow _ kept session =>
      rw [kept, assembler, session]
      exact ⟨by rw [nbc]; decide, flag', .inr ⟨rfl, by grind⟩⟩
    | stored fits kept _ _ | completed fits kept _ _ =>
      have succ := toNat_bcnt_succ (b := u.assembler.bcnt) (by rw [cfg] at fits; omega)
      rw [kept]
      simp only [nibbleCount, storedAssembler_nbc, storedAssembler_invn, storedAssembler_invcnt,
        storedAssembler_bcnt, storedAssembler_hv, succ]
      rw [assembler]
      exact ⟨by rw [nbc]; decide, flag', .inl (by grind)⟩

/-! ### The assembler's registers -/

theorem State.AssemblerSane.initial (c : Config) : (State.initial c).AssemblerSane :=
  ⟨Nat.zero_le _, rfl, fun _ => ⟨rfl, rfl, rfl⟩, nofun, nofun, nofun, rfl, fun _ => Nat.zero_le _, Nat.zero_le _⟩

/-- `AssemblerSane` reads the assembler, the configuration and whether the session runs. -/
theorem State.AssemblerSane.of_eq {s t : State} (sane : s.AssemblerSane) (assembler : t.assembler = s.assembler)
    (cfg : t.cfg = s.cfg) (running : t.session.res = .running → s.session.res = .running) : t.AssemblerSane := by
  obtain ⟨symbolCount, known, unset, raw, declared, coerced, flag, count, countEnd⟩ := sane
  refine ⟨?_, ?_, ?_, ?_, ?_, ?_, ?_, fun r => assembler ▸ count (running r), ?_⟩
  all_goals simpa only [assembler, cfg]

theorem State.AssemblerSane.cell {s : State} (sane : s.AssemblerSane) (sized : s.ArraysSized)
    (running : s.session.res = .running) (bit : Bool) : (cellEvent bit s).AssemblerSane := by
  have cfg := (cellEvent_cellFrame bit s).cfg
  have small := capacity_le_of_legal sized.legal
  obtain ⟨session, assembler⟩ | effect := cellEvent_effect bit s
  · exact sane.of_eq assembler cfg (fun _ => running)
  · obtain ⟨known, unset, raw, declared, coerced⟩ := effect.header small sized.payload sane.header
    obtain ⟨symbolCount, flag, count⟩ :=
      effect.counters small sized.countInCapacity sane.symbolCount sane.invalidFlag (sane.invalidCount running)
    have inCapacity := (effect.payload small sized.payload).inCapacity
    refine ⟨symbolCount, known, unset, raw, declared, coerced, flag, fun running' => ?_, ?_⟩
    · obtain count | ⟨overflow, -⟩ := count
      · exact count
      · exact nomatch running'.symm.trans overflow
    · rw [cfg]
      obtain count | ⟨-, countEnd⟩ := count
      · unfold nibbleCount at count
        split at count <;> omega
      · exact countEnd

/-- The arrays and the assembler's registers together, which the line bits need. -/
def State.PayloadSane (s : State) : Prop := s.ArraysSized ∧ s.AssemblerSane

theorem State.PayloadSane.cell {s : State} (sane : s.PayloadSane) (running : s.session.res = .running) (bit : Bool) :
    (cellEvent bit s).PayloadSane :=
  ⟨sane.1.cell bit, sane.2.cell sane.1 running bit⟩

theorem keptByStages_payloadSane : KeptByStages State.PayloadSane where
  ports _ _ _ _ h := ⟨keptByStages_arraysSized.ports _ _ _ _ h.1, h.2.of_eq rfl rfl id⟩
  reset legal h := ⟨keptByStages_arraysSized.reset legal h.1, (State.AssemblerSane.initial _).of_eq rfl rfl id⟩
  pair _ _ running h := ⟨keptByStages_arraysSized.pair _ _ running h.1, h.2.of_eq rfl rfl id⟩
  eos running h := ⟨keptByStages_arraysSized.eos running h.1, h.2.of_eq rfl rfl nofun⟩
  sample _ running _ effect h :=
    effect.keeps (fun _ _ => ⟨h.1.of_eq rfl rfl h.1.payload, h.2.of_eq rfl rfl nofun⟩)
      (fun _ timing => ⟨h.1.front _ timing, h.2.of_eq rfl rfl id⟩)
      (fun _ bit res _ hu => hu.cell (res.trans running) bit) h

/-- Settles O46. -/
theorem stepKeepsAssemblerSane : Obligations.StepKeepsAssemblerSane := fun _ _ sized _ sane steps =>
  (keptByStages_payloadSane.step steps ⟨sized, sane⟩).2

/-! ### The session's outcome -/

/-- The frame is not yet complete (44_nibble_byte_assembler.md R249). -/
def NotYetDue (m : Assembler) : Prop := m.lenv = true → m.bcnt.toNat < m.declen.toNat / 2

theorem SymbolTaken.notYetDue {m m' : Assembler} (taken : SymbolTaken m m') (h : NotYetDue m) : NotYetDue m' := by
  cases taken with
  | valid reg eq | invalid reg eq => rw [eq]; exact h

/-- A byte that does not complete the frame leaves it incomplete: BCNT goes up by one, and no frame has two bytes. -/
theorem NotYetDue.stored {m : Assembler} (h : NotYetDue m) (small : m.bcnt.toNat < 256) {v : Byte}
    (notDue : ¬ frameDue (storedAssembler v m)) : NotYetDue (storedAssembler v m) := by
  by_cases second : m.bcnt + 1 = 2
  · intro _
    rw [storedAssembler_bcnt, storedAssembler_of_second v second, lengthFields_eq, second]
    dsimp only
    split <;> decide
  · intro known
    have last : (m.bcnt + 1).toNat ≠ m.declen.toNat / 2 := fun last => notDue ⟨known, by
      rw [storedAssembler_bcnt, last, storedAssembler_of_not_second v second, appendByte]⟩
    rw [storedAssembler_of_not_second v second] at known ⊢
    have before := h known
    rw [toNat_bcnt_succ small] at last
    simp only [appendByte, toNat_bcnt_succ small]
    omega

/-- `OutcomeSane` of a session that still runs. -/
structure RunningSane (s : State) : Prop where
  running : s.session.res = .running
  noLength : s.session.reslen = 0
  zeroRunBound : s.session.zrun.toNat < 1000
  zeroRunStarted : s.session.started = false → s.session.zrun = 0
  notYetDue : NotYetDue s.assembler

theorem State.OutcomeSane.runningSane {s : State} (sane : s.OutcomeSane) (running : s.session.res = .running) :
    RunningSane s where
  running := running
  noLength := sane.noLength (.inl running)
  zeroRunBound := by
    have notAtLimit : s.session.zrun.toNat ≠ 1000 := fun h =>
      nomatch running.symm.trans (sane.silenceAtLimit.mpr h)
    have := sane.zeroRunBound
    omega
  zeroRunStarted := sane.zeroRunStarted
  notYetDue := sane.notYetComplete running

theorem RunningSane.outcomeSane {s : State} (sane : RunningSane s) : s.OutcomeSane := by
  obtain ⟨running, noLength, zeroRunBound, zeroRunStarted, notYetDue⟩ := sane
  refine ⟨fun _ => noLength, ?_, ?_, ?_, ?_, fun _ => running, zeroRunBound.le, ?_, zeroRunStarted,
    fun _ => notYetDue⟩
  all_goals simp [running]
  omega

/-- What a session that ends keeps of the zero run: the run ends it exactly as SilenceTimeout. -/
structure EndedSane (s : State) : Prop where
  ended : s.session.res ≠ .running
  idle : s.session.pend = false
  zeroRunBound : s.session.zrun.toNat ≤ 1000
  silenceAtLimit : s.session.res = .noResultSilence ↔ s.session.zrun.toNat = 1000
  zeroRunStarted : s.session.started = false → s.session.zrun = 0

/-- A session that ends without a frame has no length (10_state.md R36). -/
theorem EndedSane.outcomeSane_of_noResult {s : State} (sane : EndedSane s)
    (noResult : s.session.res = .noResultExhausted ∨ s.session.res = .noResultSilence)
    (noLength : s.session.reslen = 0) : s.OutcomeSane := by
  obtain ⟨ended, idle, bound, silence, started⟩ := sane
  refine ⟨fun _ => noLength, ?_, ?_, ?_, ?_, ?_, bound, silence, started, fun r => absurd r ended⟩
  all_goals obtain res | res := noResult <;> simp [res, idle]

/-- A session that overflows reports its CAPACITY (60_exceptions.md R343). -/
theorem EndedSane.outcomeSane_of_overflow {s : State} (sane : EndedSane s) (overflow : s.session.res = .overflow)
    (length : s.session.reslen.toNat = s.cfg.capacity) (full : s.assembler.bcnt.toNat = s.cfg.capacity) :
    s.OutcomeSane := by
  obtain ⟨ended, idle, bound, silence, started⟩ := sane
  refine ⟨?_, ?_, fun _ => ⟨length, full⟩, ?_, ?_, ?_, bound, silence, started, fun r => absurd r ended⟩
  all_goals simp [overflow, idle]

/-- A session that completes its frame reports its bytes (44_nibble_byte_assembler.md R249). -/
theorem EndedSane.outcomeSane_of_due {s : State} (sane : EndedSane s) (due : frameDue s.assembler)
    (res : s.session.res = if s.assembler.invn then .degraded else .success)
    (length : s.session.reslen = s.assembler.bcnt) : s.OutcomeSane := by
  obtain ⟨ended, idle, bound, silence, started⟩ := sane
  obtain ⟨known, last⟩ := due
  refine ⟨?_, fun _ => ⟨known, length, length ▸ last⟩, ?_, ?_, ?_, ?_, bound, silence, started,
    fun r => absurd r ended⟩
  all_goals cases flag : s.assembler.invn <;> simp [res, flag, idle]

theorem State.OutcomeSane.initial (c : Config) : (State.initial c).OutcomeSane :=
  RunningSane.outcomeSane ⟨rfl, rfl, Nat.zero_lt_succ _, fun _ => rfl, nofun⟩

/-- `OutcomeSane` reads the session, the assembler and the configuration only. -/
theorem State.OutcomeSane.of_eq {s t : State} (sane : s.OutcomeSane) (session : t.session = s.session)
    (assembler : t.assembler = s.assembler) (cfg : t.cfg = s.cfg) : t.OutcomeSane := by
  obtain ⟨a, b, c, d, e, f, g, h, i, j⟩ := sane
  constructor <;> simpa only [session, assembler, cfg]

/-- EOS ends a running session with no length (45_session_driver.md R274). -/
theorem State.OutcomeSane.eos {s : State} (sane : s.OutcomeSane) (running : s.session.res = .running) :
    (endOfStream s).OutcomeSane := by
  obtain ⟨-, -, bound, started, -⟩ := sane.runningSane running
  refine EndedSane.outcomeSane_of_noResult ⟨nofun, rfl, bound.le, ⟨nofun, fun atLimit => ?_⟩, started⟩ (.inl rfl) rfl
  exact absurd atLimit bound.ne

/-- The 1000th zero ends a running session with no length (45_session_driver.md R271). -/
theorem State.OutcomeSane.silence {s : State} (idle : s.session.pend = false) :
    (terminate .silenceTimeout (setGate true 1000 s)).OutcomeSane :=
  EndedSane.outcomeSane_of_noResult ⟨nofun, idle, le_rfl, ⟨fun _ => rfl, fun _ => rfl⟩, nofun⟩ (.inr rfl) rfl

/-- A sample that passes the gate keeps the zero run below its limit (45_session_driver.md R271). -/
theorem State.OutcomeSane.front {s : State} (sane : s.OutcomeSane) (running : s.session.res = .running)
    {x : BitVec 16} (passes : gatePasses x s) (timing : Timing) :
    { beforeWrap x s with timing := timing }.OutcomeSane := by
  obtain ⟨-, noLength, bound, started, notYet⟩ := sane.runningSane running
  refine RunningSane.outcomeSane ⟨running, noLength, ?_, nofun, notYet⟩
  change (zrunAfter x s).toNat < 1000
  unfold zrunAfter
  split
  · next zero =>
    have notLast : s.session.zrun.toNat ≠ 999 := (passes.resolve_left (not_not.mpr zero)).2
    bv_omega
  · decide

/-- The byte of a running session that is stored leaves the frame incomplete or completes it, and one that is not
overflows (44_nibble_byte_assembler.md R245, R249). -/
theorem State.OutcomeSane.cell {s : State} (sane : s.OutcomeSane) (payload : s.PayloadSane)
    (running : s.session.res = .running) (idle : s.session.pend = false) (bit : Bool) :
    (cellEvent bit s).OutcomeSane := by
  have frame := cellEvent_cellFrame bit s
  have small := capacity_le_of_legal payload.1.legal
  obtain ⟨-, noLength, bound, started, notYet⟩ := sane.runningSane running
  have endedSane (ended : (cellEvent bit s).session.res ≠ .running)
      (loud : (cellEvent bit s).session.res ≠ .noResultSilence) : EndedSane (cellEvent bit s) :=
    ⟨ended, frame.pend.trans idle, frame.zrun ▸ bound.le,
      ⟨fun silent => absurd silent loud, fun atLimit => absurd (frame.zrun ▸ atLimit) bound.ne⟩,
      by rw [frame.started, frame.zrun]; exact started⟩
  have stillRunning (session : (cellEvent bit s).session = s.session)
      (notYet' : NotYetDue (cellEvent bit s).assembler) : (cellEvent bit s).OutcomeSane :=
    RunningSane.outcomeSane ⟨session ▸ running, session ▸ noLength, session ▸ bound, session ▸ started, notYet'⟩
  obtain ⟨session, assembler⟩ | effect := cellEvent_effect bit s
  · exact sane.of_eq session assembler frame.cfg
  · cases effect with
    | shifted reg early assembler session => exact stillRunning session (assembler ▸ notYet)
    | highNibble m v taken first assembler session =>
      exact stillRunning session (assembler ▸ taken.notYetDue notYet)
    | byte u m v taken second assembler session cfg stored =>
      have bcnt : u.assembler.bcnt = s.assembler.bcnt := by rw [assembler]; exact taken.counters.2.2
      cases stored with
      | overflow full kept session' =>
        have atCapacity : s.assembler.bcnt.toNat = s.cfg.capacity :=
          le_antisymm payload.1.countInCapacity (bcnt ▸ cfg ▸ full)
        refine (endedSane (by rw [session']; nofun) (by rw [session']; nofun)).outcomeSane_of_overflow
          (by rw [session']) ?_ ?_
        · rw [session', frame.cfg, cfg]
          exact Nat.mod_eq_of_lt (by omega)
        · rw [kept, bcnt, frame.cfg, atCapacity]
      | stored room kept notDue session' =>
        have notYet' : NotYetDue u.assembler := assembler ▸ taken.notYetDue notYet
        rw [kept] at notDue
        refine stillRunning (session'.trans session) (kept ▸ notYet'.stored ?_ notDue)
        rw [cfg] at room
        omega
      | completed room kept due session' =>
        refine (endedSane ?_ ?_).outcomeSane_of_due due (by rw [session']) (by rw [session'])
        all_goals rw [session']; dsimp only; split <;> nofun

/-- The arrays, the assembler's registers and the outcome together, which a cell event needs. -/
def State.SessionSane (s : State) : Prop := s.PayloadSane ∧ s.OutcomeSane

theorem keptByStages_sessionSane : KeptByStages State.SessionSane where
  ports _ _ _ _ h := ⟨keptByStages_payloadSane.ports _ _ _ _ h.1, h.2.of_eq rfl rfl rfl⟩
  reset legal h := ⟨keptByStages_payloadSane.reset legal h.1, (State.OutcomeSane.initial _).of_eq rfl rfl rfl⟩
  pair pend lobyte running h :=
    ⟨keptByStages_payloadSane.pair _ _ running h.1,
      RunningSane.outcomeSane { h.2.runningSane running with }⟩
  eos running h := ⟨keptByStages_payloadSane.eos running h.1, h.2.eos running⟩
  sample legal running idle effect h := by
    refine effect.keeps (fun started atLimit => ⟨?_, State.OutcomeSane.silence idle⟩)
      (fun passes timing => ⟨?_, h.2.front running passes timing⟩)
      (fun u bit res pend hu => ⟨hu.1.cell (res.trans running) bit,
        hu.2.cell hu.1 (res.trans running) (pend.trans idle) bit⟩) h
    · exact ⟨h.1.1.of_eq rfl rfl h.1.1.payload, h.1.2.of_eq rfl rfl nofun⟩
    · exact ⟨h.1.1.front _ timing, h.1.2.of_eq rfl rfl id⟩

/-- Settles O47. -/
theorem stepKeepsOutcomeSane : Obligations.StepKeepsOutcomeSane := fun _ _ sized _ assembler sane steps =>
  (keptByStages_sessionSane.step steps ⟨⟨sized, assembler⟩, sane⟩).2

end Sys2Proof.Machine

/-! binary64 rounding to nearest, ties to even (00_scope.md R11): magnitude encodings are in order of the magnitudes
they encode, so the two encodings around an exact result are its only candidates. -/

namespace Sys2Proof.Machine

/-! ### Magnitudes and their encodings -/

/-- The units of 2^-1074 that a magnitude encoding stands for. -/
def unitsOfMag (m : Nat) : Nat :=
  if m / hiddenBit = 0 then m % hiddenBit else (hiddenBit + m % hiddenBit) * 2 ^ (m / hiddenBit - 1)

theorem fMag_eq_mod (a : B64) : fMag a = a.toNat % 2 ^ 63 := by
  rw [fMag, BitVec.extractLsb'_toNat, Nat.shiftRight_zero]

theorem fUnits_eq_unitsOfMag (a : B64) : fUnits a = unitsOfMag (fMag a) := by
  have exponent : fExp a = fMag a / hiddenBit := by
    rw [fMag_eq_mod, fExp, BitVec.extractLsb'_toNat, Nat.shiftRight_eq_div_pow, hiddenBit_eq_two_pow]
    omega
  have fraction : fFrac a = fMag a % hiddenBit := by
    rw [fMag_eq_mod, fFrac, BitVec.extractLsb'_toNat, hiddenBit_eq_two_pow]
    omega
  rw [fUnits, unitsOfMag, exponent, fraction, Nat.shiftLeft_eq]

/-- A significand `q` shifted by `e` encodes as `e · 2^52 + q`, the carry to 2^53 included; only unshifted significands
may lack the hidden bit. -/
theorem unitsOfMag_eq {e q : Nat} (fits : q ≤ 2 * hiddenBit) (normal : e = 0 ∨ hiddenBit ≤ q) :
    unitsOfMag (e * hiddenBit + q) = q * 2 ^ e := by
  have pos : 0 < hiddenBit := by decide
  rcases lt_or_ge q hiddenBit with subnormal | hidden
  · obtain rfl : e = 0 := by omega
    simp [unitsOfMag, Nat.div_eq_of_lt subnormal, Nat.mod_eq_of_lt subnormal]
  · obtain ⟨f, rfl⟩ := Nat.exists_eq_add_of_le hidden
    have regroup : e * hiddenBit + (hiddenBit + f) = f + hiddenBit * (e + 1) := by ring
    rw [regroup, unitsOfMag, Nat.add_mul_div_left _ _ pos, Nat.add_mul_mod_self_left]
    rcases Nat.lt_or_ge f hiddenBit with inside | carry
    · simp [Nat.div_eq_of_lt inside, Nat.mod_eq_of_lt inside]
    · obtain rfl : f = hiddenBit := by omega
      simp [Nat.div_self pos, pow_succ]
      ring

/-- Every magnitude encoding is a shifted significand with room for one more. -/
theorem exists_significand (m : Nat) :
    ∃ e q, m = e * hiddenBit + q ∧ q < 2 * hiddenBit ∧ (e = 0 ∨ hiddenBit ≤ q) := by
  rcases lt_or_ge m hiddenBit with subnormal | normal
  · exact ⟨0, m, by omega, by omega, .inl rfl⟩
  · have pos : 0 < hiddenBit := by decide
    have atLeastOne := Nat.div_pos normal pos
    have below := Nat.mod_lt m pos
    have split := Nat.div_add_mod m hiddenBit
    refine ⟨m / hiddenBit - 1, hiddenBit + m % hiddenBit, ?_, by omega, .inr (by omega)⟩
    obtain ⟨e, he⟩ := Nat.exists_eq_add_of_le' atLeastOne
    rw [he] at split ⊢
    rw [Nat.add_sub_cancel]
    linarith

/-- The encoding grows with the magnitude. -/
theorem unitsOfMag_strictMono : StrictMono unitsOfMag := by
  refine strictMono_nat_of_lt_succ fun m => ?_
  obtain ⟨e, q, rfl, fits, normal⟩ := exists_significand m
  rw [unitsOfMag_eq fits.le normal, add_assoc, unitsOfMag_eq fits (normal.imp_right fun h => h.trans q.le_succ)]
  exact Nat.mul_lt_mul_of_pos_right q.lt_succ_self (by positivity)

@[simp] theorem unitsOfMag_zero : unitsOfMag 0 = 0 := rfl

/-- 1.0 is 2^1074 units. -/
theorem unitsOfMag_one : unitsOfMag (1023 * hiddenBit) = unitsPerOne := by
  have packed := unitsOfMag_eq (e := 1022) (q := hiddenBit) (by decide) (.inr le_rfl)
  rw [unitsPerOne_eq_two_pow, show 1023 * hiddenBit = 1022 * hiddenBit + hiddenBit by decide, packed,
    hiddenBit_eq_two_pow, ← pow_add]

/-- The value of a finite number: its sign and its magnitude. -/
theorem fValue_eq (a : B64) :
    fValue a = if fSign a then -(unitsOfMag (fMag a) : Int) else (unitsOfMag (fMag a) : Int) := by
  rw [fValue, fUnits_eq_unitsOfMag]

/-- `>f` compares sign and magnitude encoding, in which the order of the values shows (00_scope.md R11). -/
theorem fGt_iff {a b : B64} (ha : fIsFinite a = true) (hb : fIsFinite b = true) :
    fGt a b = true ↔ fKey b < fKey a := by
  simp [fGt, fIsNaN_of_finite, ha, hb]

/-- Settles O28: with equal signs the encodings are in the order of the magnitudes; with different ones both orders
are decided by whether a magnitude is zero. -/
theorem greaterIsNumericOrder : Obligations.GreaterIsNumericOrder := by
  intro a b ha hb
  have order (m n : Nat) : unitsOfMag m < unitsOfMag n ↔ m < n := unitsOfMag_strictMono.lt_iff_lt
  have zeroA := order 0 (fMag a)
  have zeroB := order 0 (fMag b)
  have ab := order (fMag a) (fMag b)
  have ba := order (fMag b) (fMag a)
  rw [unitsOfMag_zero] at zeroA zeroB
  rw [fGt_iff ha hb, fKey, fKey, fValue_eq, fValue_eq]
  cases fSign a <;> cases fSign b <;> simp only [if_true, if_false, Bool.false_eq_true] <;> omega

/-! ### Packed magnitudes -/

theorem fInfMag_lt : fInfMag < 2 ^ 63 := by decide

theorem fMag_fPack (neg : Bool) {mag : Nat} (h : mag < 2 ^ 63) : fMag (fPack neg mag) = mag := by
  rw [fMag, extractLsb'_fPack neg mag (by decide), pow_zero, Nat.div_one, Nat.mod_eq_of_lt h]

theorem fIsFinite_fPack (neg : Bool) {mag : Nat} (h : mag ≤ fInfMag) :
    fIsFinite (fPack neg mag) = true ↔ mag < fInfMag := by
  have inRange : mag < 2 ^ 63 := h.trans_lt fInfMag_lt
  rw [fIsFinite, fExp_fPack neg inRange, bne_iff_ne]
  simp only [fInfMag, hiddenBit_eq_two_pow] at h ⊢
  omega

/-- Bit 0 of a packed number is that of its magnitude encoding. -/
theorem getLsbD_zero_fPack (neg : Bool) {mag : Nat} (even : mag % 2 = 0) : (fPack neg mag).getLsbD 0 = false := by
  have low : ((fPack neg mag).extractLsb' 0 1).toNat = 0 := by
    rw [extractLsb'_fPack neg mag (by decide), pow_zero, Nat.div_one, pow_one, even]
  have clear : (fPack neg mag).extractLsb' 0 1 = 0 := BitVec.eq_of_toNat_eq low
  simpa using congrArg (BitVec.getLsbD · 0) clear

theorem fValue_fPack (neg : Bool) {mag : Nat} (h : mag < 2 ^ 63) :
    fValue (fPack neg mag) = if neg then -(unitsOfMag mag : Int) else (unitsOfMag mag : Int) := by
  rw [fValue_eq, fSign_fPack neg h, fMag_fPack neg h]

/-! ### Rounding -/

/-- `roundQuot` is nearest among all numbers outside the gap between the two multiples of `d` around `n`, and on a tie
its quotient is even. -/
theorem roundQuot_nearest (n : Nat) {d : Nat} (hd : 0 < d) {x : Int}
    (outside : x ≤ (n / d * d : Nat) ∨ ((n / d + 1) * d : Nat) ≤ x) :
    |(roundQuot n d * d : Nat) - (n : Int)| ≤ |x - n|
      ∧ (|(roundQuot n d * d : Nat) - (n : Int)| = |x - n| → x ≠ (roundQuot n d * d : Nat) →
        roundQuot n d % 2 = 0) := by
  have division := Nat.div_add_mod' n d
  have remainder := Nat.mod_lt n hd
  rw [Nat.succ_mul] at outside
  simp only [Int.abs_eq_natAbs]
  unfold roundQuot
  split
  · rw [Nat.succ_mul]
    omega
  · omega

/-- The significand of `roundMag` before rounding, and its two neighbours as magnitudes. -/
theorem unitsOfMag_around (n : Nat) {d : Nat} :
    unitsOfMag (ulpShift n d * hiddenBit + n / (d <<< ulpShift n d)) = n / (d <<< ulpShift n d) * 2 ^ ulpShift n d
      ∧ unitsOfMag (ulpShift n d * hiddenBit + (n / (d <<< ulpShift n d) + 1))
        = (n / (d <<< ulpShift n d) + 1) * 2 ^ ulpShift n d := by
  have quotient : n / (d <<< ulpShift n d) = n / d / 2 ^ ((n / d).log2 - 52) := by
    rw [Nat.shiftLeft_eq, ← Nat.div_div_eq_div_mul, ulpShift]
  have fits : n / (d <<< ulpShift n d) < 2 * hiddenBit := quotient ▸ significand_lt (n / d)
  have normal : ulpShift n d = 0 ∨ hiddenBit ≤ n / (d <<< ulpShift n d) := by
    rw [quotient]
    exact or_iff_not_imp_left.mpr hiddenBit_le_significand
  exact ⟨unitsOfMag_eq fits.le normal, unitsOfMag_eq fits (normal.imp_right fun h => h.trans (Nat.le_succ _))⟩

/-- Below the overflow limit `roundMag` stands for the rounded significand. -/
theorem unitsOfMag_roundMag {n d : Nat} (finite : roundMag n d < fInfMag) :
    unitsOfMag (roundMag n d) = roundQuot n (d <<< ulpShift n d) * 2 ^ ulpShift n d
      ∧ roundMag n d = ulpShift n d * hiddenBit + roundQuot n (d <<< ulpShift n d) := by
  have unbounded : roundMag n d = ulpShift n d * hiddenBit + roundQuot n (d <<< ulpShift n d) := by
    unfold roundMag at finite ⊢
    omega
  obtain ⟨below, above⟩ := unitsOfMag_around n (d := d)
  refine ⟨?_, unbounded⟩
  rw [unbounded]
  unfold roundQuot
  split
  · exact above
  · exact below

/-- No magnitude lies strictly between the two around n / d. -/
theorem unitsOfMag_outside (n d m : Nat) :
    unitsOfMag m * d ≤ n / (d <<< ulpShift n d) * (d <<< ulpShift n d)
      ∨ (n / (d <<< ulpShift n d) + 1) * (d <<< ulpShift n d) ≤ unitsOfMag m * d := by
  obtain ⟨below, above⟩ := unitsOfMag_around n (d := d)
  have scaled (k : Nat) : k * (d <<< ulpShift n d) = k * 2 ^ ulpShift n d * d := by
    rw [Nat.shiftLeft_eq]
    ring
  rw [scaled, scaled, ← below, ← above]
  rcases Nat.lt_or_ge (ulpShift n d * hiddenBit + n / (d <<< ulpShift n d)) m with larger | smaller
  · exact .inr (Nat.mul_le_mul_right d (unitsOfMag_strictMono.monotone larger))
  · exact .inl (Nat.mul_le_mul_right d (unitsOfMag_strictMono.monotone smaller))

/-- `roundMag` is nearest to n / d among all signed magnitudes, and even on a tie (00_scope.md R11). -/
theorem roundMag_nearest {n d : Nat} (hd : 0 < d) (finite : roundMag n d < fInfMag) {x : Int} {m : Nat}
    (magnitude : x = unitsOfMag m ∨ x = -(unitsOfMag m : Int)) :
    |(unitsOfMag (roundMag n d) : Int) * d - n| ≤ |x * d - n|
      ∧ (|(unitsOfMag (roundMag n d) : Int) * d - n| = |x * d - n| → x ≠ unitsOfMag (roundMag n d) →
        roundMag n d % 2 = 0) := by
  obtain ⟨units, encoding⟩ := unitsOfMag_roundMag finite
  have hD : 0 < d <<< ulpShift n d := by rw [Nat.shiftLeft_eq]; positivity
  have product : (unitsOfMag (roundMag n d) : Int) * d
      = (roundQuot n (d <<< ulpShift n d) * (d <<< ulpShift n d) : Nat) := by
    rw [units, Nat.shiftLeft_eq]
    push_cast
    ring
  have outside : x * d ≤ (n / (d <<< ulpShift n d) * (d <<< ulpShift n d) : Nat)
      ∨ ((n / (d <<< ulpShift n d) + 1) * (d <<< ulpShift n d) : Nat) ≤ x * d := by
    obtain rfl | rfl := magnitude
    · exact_mod_cast unitsOfMag_outside n d m
    · refine .inl (le_trans ?_ (Int.natCast_nonneg _))
      rw [neg_mul]
      exact neg_nonpos.mpr (by positivity)
  obtain ⟨nearest, tie⟩ := roundQuot_nearest n hD outside
  rw [product]
  refine ⟨nearest, fun equal different => ?_⟩
  have evenQuot := tie equal fun same => different (by
    rw [← product] at same
    exact Int.eq_of_mul_eq_mul_right (by omega) same)
  rw [encoding, Nat.add_mod, Nat.mul_mod, show hiddenBit % 2 = 0 by decide, evenQuot]
  simp

/-- A finite rounding with its sign is the nearest binary64 number, ties to even (00_scope.md R11). -/
theorem isNearestEven_fPack (neg : Bool) {n d : Nat} (hd : 0 < d)
    (finite : fIsFinite (fPack neg (roundMag n d)) = true) :
    IsNearestEven (if neg then -(n : Int) else n) d (fPack neg (roundMag n d)) := by
  have below : roundMag n d < fInfMag := (fIsFinite_fPack neg (min_le_right _ _)).mp finite
  have value := fValue_fPack neg (below.trans fInfMag_lt)
  refine ⟨finite, fun c _ => ?_⟩
  have magnitude := fValue_eq c
  cases neg with
  | false =>
    simp only [Bool.false_eq_true, if_false] at value ⊢
    rw [value]
    have signed : fValue c = unitsOfMag (fMag c) ∨ fValue c = -(unitsOfMag (fMag c) : Int) := by
      rw [magnitude]
      split <;> simp
    obtain ⟨nearest, tie⟩ := roundMag_nearest hd below signed
    exact ⟨nearest, fun equal different => getLsbD_zero_fPack _ (tie equal different)⟩
  | true =>
    simp only [if_true] at value ⊢
    have signed : -fValue c = unitsOfMag (fMag c) ∨ -fValue c = -(unitsOfMag (fMag c) : Int) := by
      rw [magnitude]
      split <;> simp
    have flip (y : Int) : |y * d - -(n : Int)| = |-y * d - n| := by
      rw [← abs_neg]
      congr 1
      ring
    obtain ⟨nearest, tie⟩ := roundMag_nearest hd below signed
    rw [flip, flip, value, neg_neg]
    exact ⟨nearest, fun equal different =>
      getLsbD_zero_fPack _ (tie equal fun same => different (by rw [← same, neg_neg]))⟩

/-! ### The operations on finite numbers -/

theorem roundUnits_eq (v : Int) (negZero : Bool) :
    roundUnits v negZero = fPack (if v = 0 then negZero else decide (v < 0)) (roundMag v.natAbs 1) := by
  unfold roundUnits
  split
  · next zero => simp [zero, fZero, roundMag, roundQuot, ulpShift]
  · rfl

theorem fAdd_of_finite {a b : B64} (ha : fIsFinite a = true) (hb : fIsFinite b = true) :
    fAdd a b = roundUnits (fValue a + fValue b) (fSign a && fSign b) := by
  simp [fAdd, fIsNaN_of_finite, fIsInf_of_finite, ha, hb]

theorem fMul_of_finite {a b : B64} (ha : fIsFinite a = true) (hb : fIsFinite b = true) :
    fMul a b = fPack (fSign a != fSign b) (roundMag (fUnits a * fUnits b) unitsPerOne) := by
  simp [fMul, fIsNaN_of_finite, fIsInf_of_finite, ha, hb]

/-- Settles O25: the sum is rounded once, as a whole number of units. -/
theorem addIsNearestEven : Obligations.AddIsNearestEven := by
  intro a b ha hb finite
  rw [fAdd_of_finite ha hb, roundUnits_eq] at finite ⊢
  have nearest := isNearestEven_fPack _ Nat.one_pos finite
  have exact (v : Int) (negZero : Bool) :
      (if (if v = 0 then negZero else decide (v < 0)) then -(v.natAbs : Int) else v.natAbs) = v := by
    split <;> grind
  rwa [exact] at nearest

/-- The sign and the units of a product. -/
theorem fValue_mul (a b : B64) :
    fValue a * fValue b
      = if fSign a != fSign b then -((fUnits a * fUnits b : Nat) : Int) else (fUnits a * fUnits b : Nat) := by
  unfold fValue
  cases fSign a <;> cases fSign b <;> simp

/-- Settles O26: the product of the units is rounded once, at the scale of one unit squared. -/
theorem mulIsNearestEven : Obligations.MulIsNearestEven := by
  intro a b ha hb finite
  rw [fMul_of_finite ha hb] at finite ⊢
  rw [fValue_mul]
  exact isNearestEven_fPack _ unitsPerOne_pos finite

/-- The sign and the units of a dividend over a divisor's magnitude. -/
theorem fValue_mul_sign (a : B64) {b : B64} (nonzero : fValue b ≠ 0) (scale : Nat) :
    fValue a * scale * (fValue b).sign
      = if fSign a != fSign b then -((fUnits a * scale : Nat) : Int) else (fUnits a * scale : Nat) := by
  have positive : (0 : Int) < fUnits b := by
    rw [Int.natCast_pos, Nat.pos_iff_ne_zero]
    intro zero
    simp [fValue, zero] at nonzero
  have sign : (fValue b).sign = if fSign b then -1 else 1 := by
    unfold fValue
    split
    · rw [Int.sign_neg, Int.sign_eq_one_of_pos positive]
    · exact Int.sign_eq_one_of_pos positive
  rw [sign]
  unfold fValue
  cases fSign a <;> cases fSign b <;> simp

theorem natAbs_fValue (a : B64) : (fValue a).natAbs = fUnits a := by
  unfold fValue
  split <;> simp

/-- Settles O27: the quotient of the units is rounded once. -/
theorem divIsNearestEven : Obligations.DivIsNearestEven := by
  intro a b ha hb nonzero finite
  have divisor : fUnits b ≠ 0 := by
    rw [← natAbs_fValue]
    exact Int.natAbs_ne_zero.mpr nonzero
  rw [fDiv_of_encodesUnits ⟨ha, rfl, rfl⟩ ⟨hb, rfl, rfl⟩ divisor] at finite ⊢
  rw [fValue_mul_sign a nonzero, natAbs_fValue]
  exact isNearestEven_fPack _ (Nat.pos_of_ne_zero divisor) finite

end Sys2Proof.Machine

/-! Timing recovery keeps PHASE in range: the advance stays within 2.0, and past 1.0 the subtraction is exact
(42_timing_recovery.md R192, R193, R195). -/

namespace Sys2Proof.Machine

/-! ### Numbers that are not negative -/

/-- A finite number that is not negative, with this magnitude encoding. -/
structure Nonneg (a : B64) (m : Nat) : Prop where
  sign : fSign a = false
  mag : fMag a = m
  finite : m < fInfMag

theorem toNat_eq_fMag {a : B64} (sign : fSign a = false) : a.toNat = fMag a := by
  rw [fSign, BitVec.msb_eq_decide, decide_eq_false_iff_not] at sign
  rw [fMag_eq_mod, Nat.mod_eq_of_lt (by omega)]

theorem Nonneg.toNat_eq {a : B64} {m : Nat} (h : Nonneg a m) : a.toNat = m := by
  rw [toNat_eq_fMag h.sign, h.mag]

theorem fIsFinite_iff (a : B64) : fIsFinite a = true ↔ fMag a < fInfMag := by
  have bound : fMag a < 2 ^ 63 := by rw [fMag_eq_mod]; exact Nat.mod_lt _ (by decide)
  have exponent : fExp a = fMag a / hiddenBit := by
    rw [fMag_eq_mod, fExp, BitVec.extractLsb'_toNat, Nat.shiftRight_eq_div_pow, hiddenBit_eq_two_pow]
    omega
  rw [fIsFinite, bne_iff_ne, exponent]
  simp only [fInfMag, hiddenBit_eq_two_pow]
  omega

theorem Nonneg.isFinite {a : B64} {m : Nat} (h : Nonneg a m) : fIsFinite a = true := by
  rw [fIsFinite_iff, h.mag]
  exact h.finite

theorem Nonneg.value {a : B64} {m : Nat} (h : Nonneg a m) : fValue a = unitsOfMag m := by
  rw [fValue_eq, h.sign, h.mag]
  rfl

theorem nonneg_of_toNat_lt {a : B64} (h : a.toNat < fInfMag) : Nonneg a a.toNat := by
  have bound := h.trans fInfMag_lt
  have mag : fMag a = a.toNat := by rw [fMag_eq_mod, Nat.mod_eq_of_lt bound]
  refine ⟨?_, mag, h⟩
  rw [fSign, BitVec.msb_eq_decide, decide_eq_false_iff_not]
  omega

theorem nonneg_fPack {m : Nat} (h : m < fInfMag) : Nonneg (fPack false m) m :=
  ⟨fSign_fPack false (h.trans fInfMag_lt), fMag_fPack false (h.trans fInfMag_lt), h⟩

theorem nonneg_fOne : Nonneg fOne (1023 * hiddenBit) := ⟨by decide, by decide, by decide⟩

/-- `>f` of numbers that are not negative compares their encodings. -/
theorem Nonneg.fGt_iff {a b : B64} {m n : Nat} (ha : Nonneg a m) (hb : Nonneg b n) : fGt a b = true ↔ n < m := by
  rw [Machine.fGt_iff ha.isFinite hb.isFinite, fKey, fKey, ha.sign, hb.sign, ha.mag, hb.mag]
  simp

/-- A number greater than one that is not negative is not negative and has the greater encoding. -/
theorem Nonneg.of_fGt {a b : B64} {n : Nat} (finite : fIsFinite a = true) (hb : Nonneg b n)
    (greater : fGt a b = true) : Nonneg a (fMag a) ∧ n < fMag a := by
  have mag := (fIsFinite_iff a).mp finite
  rw [Machine.fGt_iff finite hb.isFinite, fKey, fKey, hb.sign, hb.mag] at greater
  cases sign : fSign a with
  | false =>
    rw [sign] at greater
    exact ⟨⟨sign, rfl, mag⟩, by simpa using greater⟩
  | true =>
    simp only [sign, if_true, Bool.false_eq_true, if_false] at greater
    omega

/-! ### The wrap -/

/-- 2^-52 in units of 2^-1074, the step between the numbers from 1.0 to 2.0. -/
def ulpOfOne : Nat := 2 ^ 1022

theorem ulpOfOne_pos : 0 < ulpOfOne := by
  rw [ulpOfOne]
  positivity

theorem hiddenBit_mul_ulpOfOne : hiddenBit * ulpOfOne = unitsPerOne := by
  rw [hiddenBit_eq_two_pow, ulpOfOne, ← pow_add, unitsPerOne_eq_two_pow]

/-- From 1.0 to 2.0 a number is 1.0 and one step for each count above 1.0's encoding. -/
theorem unitsOfMag_from_one {f : Nat} (within : f ≤ hiddenBit) :
    unitsOfMag (1023 * hiddenBit + f) = unitsPerOne + f * ulpOfOne := by
  have packed := unitsOfMag_eq (e := 1022) (q := hiddenBit + f) (by omega) (.inr (Nat.le_add_right _ _))
  rw [← ulpOfOne] at packed
  rw [show 1023 * hiddenBit + f = 1022 * hiddenBit + (hiddenBit + f) by ring, packed, ← hiddenBit_mul_ulpOfOne,
    Nat.add_mul]

theorem fValue_fNeg_fOne : fIsFinite (fNeg fOne) = true ∧ fValue (fNeg fOne) = -(unitsPerOne : Int) := by
  have mag : fMag (fNeg fOne) = 1023 * hiddenBit := by decide
  have sign : fSign (fNeg fOne) = true := by decide
  refine ⟨by rw [fIsFinite_iff, mag]; decide, ?_⟩
  rw [fValue_eq, sign, if_pos rfl, mag, unitsOfMag_one]

/-- A natural count of units is rounded without a sign. -/
theorem roundUnits_natCast (n : Nat) : roundUnits n false = fPack false (roundMag n 1) := by
  have sign : (if (n : Int) = 0 then false else decide ((n : Int) < 0)) = false := by
    split
    · rfl
    · exact decide_eq_false (Int.natCast_nonneg _).not_gt
  rw [roundUnits_eq, Int.natAbs_natCast, sign]

/-- The wrap's subtraction needs no rounding (42_timing_recovery.md R193). -/
theorem encodesUnits_fSub_fOne {p : B64} {f : Nat} (h : Nonneg p (1023 * hiddenBit + f)) (within : f ≤ hiddenBit) :
    EncodesUnits (fSub p fOne) false (f * ulpOfOne) := by
  obtain ⟨finite, value⟩ := fValue_fNeg_fOne
  have difference : fValue p + fValue (fNeg fOne) = (f * ulpOfOne : Nat) := by
    rw [h.value, value, unitsOfMag_from_one within]
    push_cast
    ring
  have small : f < 2 ^ 53 := within.trans_lt (by decide)
  have rounded := encodesUnits_roundMag false (k := 1022) Nat.one_pos small (by decide)
  rw [Nat.mul_one, ← ulpOfOne] at rounded
  rwa [fSub, fAdd_of_finite h.isFinite finite, difference, h.sign, Bool.false_and, roundUnits_natCast]

/-- Settles O29: the number is 1.0 and a whole count of 2^-52, which the subtraction leaves. -/
theorem wrapSubtractionIsExact : Obligations.WrapSubtractionIsExact := by
  intro p finite pastOne within
  have two : Nonneg (0x4000000000000000 : B64) (1024 * hiddenBit) := ⟨by decide, by decide, by decide⟩
  obtain ⟨h, past⟩ := Nonneg.of_fGt finite nonneg_fOne pastOne
  have upTo : fMag p ≤ 1024 * hiddenBit := by
    rw [← Bool.not_eq_true, h.fGt_iff two] at within
    exact not_lt.mp within
  obtain ⟨f, split⟩ := Nat.exists_eq_add_of_le past.le
  rw [split] at h
  have room : f ≤ hiddenBit := by omega
  have exact := encodesUnits_fSub_fOne h room
  refine ⟨exact.finite, ?_⟩
  change fValue (fSub p fOne) = _
  rw [fValue, exact.sign, exact.units, h.value, unitsOfMag_from_one room, if_neg Bool.false_ne_true, Nat.cast_add,
    add_sub_cancel_left]

/-! ### The advance -/

/-- A rounding does not pass a magnitude that is not passed before (00_scope.md R11). -/
theorem roundMag_one_le {n m : Nat} (finite : roundMag n 1 < fInfMag) (h : n ≤ unitsOfMag m) :
    roundMag n 1 ≤ m := by
  obtain ⟨nearest, -⟩ := roundMag_nearest Nat.one_pos finite (.inl (rfl : (unitsOfMag m : Int) = unitsOfMag m))
  by_contra above
  have := unitsOfMag_strictMono (not_le.mp above)
  simp only [Int.abs_eq_natAbs] at nearest
  omega

theorem le_roundMag_one {n m : Nat} (finite : roundMag n 1 < fInfMag) (h : unitsOfMag m ≤ n) :
    m ≤ roundMag n 1 := by
  obtain ⟨nearest, -⟩ := roundMag_nearest Nat.one_pos finite (.inl (rfl : (unitsOfMag m : Int) = unitsOfMag m))
  by_contra below
  have := unitsOfMag_strictMono (not_le.mp below)
  simp only [Int.abs_eq_natAbs] at nearest
  omega

theorem log2_le_of_le_two_mul_pow {n k : Nat} (h : n ≤ 2 * 2 ^ k) : n.log2 ≤ k + 1 := by
  rcases Nat.eq_zero_or_pos n with rfl | positive
  · simp
  · refine Nat.lt_succ_iff.mp ((Nat.log2_lt positive.ne').mpr (h.trans_lt ?_))
    rw [← pow_succ']
    exact Nat.pow_lt_pow_right Nat.one_lt_two (Nat.lt_succ_self _)

/-- A count of units up to 2.0 does not overflow when rounded. -/
theorem roundMag_one_finite {n : Nat} (h : n ≤ 2 * unitsPerOne) : roundMag n 1 < fInfMag := by
  have shift : ulpShift n 1 ≤ 1023 := by
    rw [unitsPerOne_eq_two_pow] at h
    have := log2_le_of_le_two_mul_pow h
    rw [ulpShift, Nat.div_one]
    omega
  have quotient : n / (1 <<< ulpShift n 1) < 2 * hiddenBit := by
    have := significand_lt n
    rwa [Nat.shiftLeft_eq, Nat.one_mul, ulpShift, Nat.div_one]
  have rounded : roundQuot n (1 <<< ulpShift n 1) ≤ n / (1 <<< ulpShift n 1) + 1 := by
    unfold roundQuot
    split <;> omega
  unfold roundMag
  refine (min_le_left _ _).trans_lt ?_
  simp only [fInfMag, hiddenBit_eq_two_pow] at quotient ⊢
  omega

/-- A sum of two phases up to 1.0, not both zero, is positive and at most 2.0 (42_timing_recovery.md R192). -/
theorem nonneg_fAdd {a b : B64} {m n : Nat} (ha : Nonneg a m) (hb : Nonneg b n) (hm : m ≤ 1023 * hiddenBit)
    (hn : n ≤ 1023 * hiddenBit) (positive : 0 < n) :
    ∃ k, Nonneg (fAdd a b) k ∧ 0 < k ∧ k ≤ 1024 * hiddenBit := by
  have unitsA := unitsOfMag_strictMono.monotone hm
  have unitsB := unitsOfMag_strictMono.monotone hn
  have unitsPos : 0 < unitsOfMag n := by simpa using unitsOfMag_strictMono positive
  rw [unitsOfMag_one] at unitsA unitsB
  have two : unitsOfMag (1024 * hiddenBit) = 2 * unitsPerOne := by
    rw [show 1024 * hiddenBit = 1023 * hiddenBit + hiddenBit by decide, unitsOfMag_from_one le_rfl,
      hiddenBit_mul_ulpOfOne, Nat.two_mul]
  have one : unitsOfMag 1 = 1 := by decide
  have finite := roundMag_one_finite (n := unitsOfMag m + unitsOfMag n) (by omega)
  have sum : fAdd a b = fPack false (roundMag (unitsOfMag m + unitsOfMag n) 1) := by
    rw [fAdd_of_finite ha.isFinite hb.isFinite, ha.value, hb.value, ha.sign, Bool.false_and, ← Nat.cast_add,
      roundUnits_natCast]
  rw [sum]
  exact ⟨_, nonneg_fPack finite, le_roundMag_one finite (one ▸ by omega), roundMag_one_le finite (by omega)⟩

/-! ### PHASE -/

/-- STEP of a legal configuration is in (0, 1.0] (42_timing_recovery.md R190). -/
theorem nonneg_phaseStep {c : Config} (legal : c.legal = true) :
    ∃ n, Nonneg c.phaseStep n ∧ 0 < n ∧ n ≤ 1023 * hiddenBit := by
  have zero : Nonneg (fZero false) 0 := ⟨by decide, by decide, by decide⟩
  have inRange : c.stepInRange = true := by
    rw [Config.legal, Bool.and_eq_true] at legal
    exact legal.2
  simp only [Config.stepInRange, Bool.and_eq_true, Bool.not_eq_true'] at inRange
  obtain ⟨positive, atMostOne⟩ := inRange
  have number : fIsNaN c.phaseStep = false := by
    simp only [fGt, Bool.and_eq_true, Bool.not_eq_true'] at positive
    exact positive.1.1
  have finite : fIsFinite c.phaseStep = true := by
    rw [fIsFinite_iff]
    have keyOne : fKey fOne = 1023 * hiddenBit := by decide
    have keyZero : fKey (fZero false) = 0 := by decide
    have notNaNOne : fIsNaN fOne = false := by decide
    have notNaNZero : fIsNaN (fZero false) = false := by decide
    simp only [fGt, number, notNaNOne, notNaNZero, keyOne, keyZero, Bool.not_false, Bool.true_and, decide_eq_true_eq,
      decide_eq_false_iff_not] at positive atMostOne
    have keyMag : fKey c.phaseStep ≤ fMag c.phaseStep ∧ (0 < fKey c.phaseStep → fKey c.phaseStep = fMag c.phaseStep) := by
      unfold fKey
      split <;> omega
    have oneFinite : 1023 * hiddenBit < fInfMag := by decide
    omega
  obtain ⟨h, past⟩ := Nonneg.of_fGt finite zero positive
  refine ⟨_, h, past, ?_⟩
  rw [← Bool.not_eq_true, h.fGt_iff nonneg_fOne] at atMostOne
  exact not_lt.mp atMostOne

/-- The bound of PHASE as encodings (10_state.md R42). -/
theorem le_fOne_iff (a : B64) : a ≤ fOne ↔ a.toNat ≤ 1023 * hiddenBit := by
  rw [BitVec.le_def, nonneg_fOne.toNat_eq]

/-- PHASE before the wrap test is positive and at most 2.0 (42_timing_recovery.md R191, R192). -/
theorem nonneg_phaseBeforeWrap {s : State} (legal : s.cfg.legal = true) (inRange : s.PhaseInRange) (x : BitVec 16) :
    ∃ k, Nonneg (phaseBeforeWrap x s) k ∧ 0 < k ∧ k ≤ 1024 * hiddenBit := by
  obtain ⟨n, step, positive, atMostOne⟩ := nonneg_phaseStep legal
  have oneFinite : 1023 * hiddenBit < fInfMag := by decide
  have start {p : B64} (h : p ≤ fOne) : Nonneg p p.toNat :=
    nonneg_of_toNat_lt (((le_fOne_iff p).mp h).trans_lt oneFinite)
  have base (p : B64) (h : p ≤ fOne) : ∃ k, Nonneg (fAdd p s.cfg.phaseStep) k ∧ 0 < k ∧ k ≤ 1024 * hiddenBit :=
    nonneg_fAdd (start h) step ((le_fOne_iff p).mp h) atMostOne positive
  unfold phaseBeforeWrap
  split
  · exact base _ inRange
  · exact base _ (by decide)

/-- The phase a passed sample leaves. -/
theorem phase_of_passed {x : BitVec 16} {s t : State} (legal : s.cfg.legal = true) (inRange : s.PhaseInRange)
    (passes : gatePasses x s) (effect : SampleEffect x s t) :
    0 < t.timing.phase ∧ t.timing.phase ≤ fOne := by
  obtain ⟨k, h, positive, atMostTwo⟩ := nonneg_phaseBeforeWrap legal inRange x
  have bounds {p : B64} {m : Nat} (hp : Nonneg p m) (pos : 0 < m) (le : m ≤ 1023 * hiddenBit) : 0 < p ∧ p ≤ fOne := by
    rw [BitVec.lt_def, le_fOne_iff, hp.toNat_eq]
    exact ⟨pos, le⟩
  cases effect with
  | leadingZero unstarted zero =>
    exact absurd zero (passes.resolve_right fun h => nomatch unstarted.symm.trans h.1)
  | silence _ zero atLimit =>
    exact absurd zero (passes.resolve_right fun h => h.2 (by rw [atLimit]; rfl))
  | noCell _ within =>
    rw [← Bool.not_eq_true, h.fGt_iff nonneg_fOne] at within
    exact bounds h positive (not_lt.mp within)
  | cell _ past =>
    rw [h.fGt_iff nonneg_fOne] at past
    obtain ⟨f, rfl⟩ := Nat.exists_eq_add_of_le past.le
    have exact := encodesUnits_fSub_fOne h (by omega)
    have timing := (cellEvent_cellFrame (decisionOf x s) { beforeWrap x s with timing := wrappedTiming x s }).timing
    rw [timing]
    have wrapped : Nonneg (fSub (phaseBeforeWrap x s) fOne) (fMag (fSub (phaseBeforeWrap x s) fOne)) :=
      ⟨exact.sign, rfl, (fIsFinite_iff _).mp exact.finite⟩
    have units := exact.units
    rw [fUnits_eq_unitsOfMag] at units
    refine bounds wrapped ?_ ?_
    · rw [← unitsOfMag_strictMono.lt_iff_lt, units, unitsOfMag_zero]
      exact Nat.mul_pos (by omega) ulpOfOne_pos
    · rw [← unitsOfMag_strictMono.le_iff_le, units, unitsOfMag_one, ← hiddenBit_mul_ulpOfOne]
      exact Nat.mul_le_mul_right _ (by omega)

theorem keptByStages_phaseInRange : KeptByStages State.PhaseInRange where
  ports _ _ _ _ h := h
  reset _ _ := show fZero false ≤ fOne by decide
  pair _ _ _ h := h
  eos _ h := h
  sample {s t x} legal _ _ effect h := by
    by_cases passes : gatePasses x s
    · exact (phase_of_passed legal h passes effect).2
    · cases effect with
      | leadingZero _ _ => exact h
      | silence _ _ _ => exact h
      | noCell passes' _ | cell passes' _ => exact absurd passes' passes

/-- Settles O48. -/
theorem stepKeepsPhaseInRange : Obligations.StepKeepsPhaseInRange := fun _ _ inRange steps =>
  keptByStages_phaseInRange.step steps inRange

/-- Settles O51. -/
theorem phasePositiveAfterSample : Obligations.PhasePositiveAfterSample := by
  intro s t x legal inRange running idle passes runs
  cases (exec_sample_running running idle x).symm.trans runs
  have bounds := phase_of_passed legal inRange passes (sampleStep_effect x running)
  exact bounds

end Sys2Proof.Machine

/-! The reset state meets every invariant, so every reachable state does. -/

namespace Sys2Proof.Machine

/-- All invariants together, for a block with the parameters `c`. -/
structure Sound (c : Config) (s : State) : Prop where
  cfg : s.cfg = c
  session : s.SessionSane
  frame : s.FrameSane
  phase : s.PhaseInRange

theorem Sound.initial {c : Config} (legal : c.legal = true) : Sound c (State.initial c) where
  cfg := rfl
  session := ⟨⟨.initial legal, .initial c⟩, .initial c⟩
  frame := .initial c
  phase := show fZero false ≤ fOne by decide

theorem Sound.send {c : Config} {s : State} (sound : Sound c s) (x : Input) :
    Sound c { s with input := s.input ++ [x] } where
  cfg := sound.cfg
  session := keptByStages_sessionSane.ports s.events s.draws _ s.resp sound.session
  frame := keptByStages_frameSane.ports s.events s.draws _ s.resp sound.frame
  phase := sound.phase

theorem Sound.step {c : Config} {s t : State} (sound : Sound c s) (steps : step s = .next t) : Sound c t where
  cfg := (keptByStages_cfg c).step steps sound.cfg
  session := keptByStages_sessionSane.step steps sound.session
  frame := keptByStages_frameSane.step steps sound.frame
  phase := keptByStages_phaseInRange.step steps sound.phase

theorem Sound.of_reachable {c : Config} {s : State} (legal : c.legal = true) (reachable : Reachable c s) :
    Sound c s := by
  induction reachable with
  | powerOn => exact .initial legal
  | send s x _ ih => exact ih.send x
  | step s t _ steps ih => exact ih.step steps

/-- Settles O49. -/
theorem initialStateMeetsInvariants : Obligations.InitialStateMeetsInvariants := by
  refine ⟨fun c legal => ?_, rfl, by decide +kernel⟩
  obtain ⟨-, ⟨⟨sized, assembler⟩, outcome⟩, frame, phase⟩ := Sound.initial legal
  exact ⟨sized, frame, assembler, outcome, phase⟩

/-- Settles O50. -/
theorem reachableStatesMeetInvariants : Obligations.ReachableStatesMeetInvariants := by
  intro c s legal reachable
  obtain ⟨cfg, ⟨⟨sized, assembler⟩, outcome⟩, frame, phase⟩ := Sound.of_reachable legal reachable
  exact ⟨cfg, sized, frame, assembler, outcome, phase, exists_step sized.legal⟩

end Sys2Proof.Machine

/-! Reset, refusal, and input that has no effect of its own. -/

namespace Sys2Proof.Machine

/-! ### One step -/

/-- Settles O6. -/
theorem stepRunsDecodedCommand : Obligations.StepRunsDecodedCommand := by
  refine fun s legal => ⟨fun w rest i oldest decoded => ?_, fun none => ?_⟩
  · rw [step_command legal oldest, serveCommand_of_ok decoded]
  · rw [step, if_pos legal, serveInput, none]

/-- A pulse of `rst` at the head of the inputs resets the block (70_reset_and_hazards.md R380). -/
theorem step_rst {s : State} {rest : List Input} (legal : s.cfg.legal = true) (oldest : s.input = .rst :: rest) :
    step s = .next (resetAll { s with input := rest }) := by
  rw [step, if_pos legal, serveInput, oldest]
  rfl

/-- Settles O8: `resetAll` is the state listed there, in front of both entries. -/
theorem resetRestoresEveryElement : Obligations.ResetRestoresEveryElement := by
  have zero : fZero false = 0x0000000000000000 := by decide
  refine fun s => ⟨?_, fun _ => rfl, fun rest legal oldest => ?_, ?_⟩
  · rw [exec_reset, respond, resetAll, State.initial, zero]
  · rw [step_rst legal oldest, resetAll, State.initial, zero]
  · rw [State.initial, zero]

/-- Settles O9: `step` asks for the conjunction of R8's conditions first. -/
theorem illegalConfigurationIsRefused : Obligations.IllegalConfigurationIsRefused := by
  intro s
  have refused : step s = .refused .illegalConfiguration ↔ ¬ s.cfg.legal = true := by
    refine ⟨fun h legal => ?_, fun illegal => by rw [step, if_neg illegal]⟩
    obtain ⟨t, next⟩ := exists_step legal
    exact nomatch h.symm.trans next
  have zero : fZero false = 0x0000000000000000 := by decide
  rw [refused]
  simp only [Config.legal, Config.romSized, Config.stepInRange, zero, fOne, Bool.and_eq_true, decide_eq_true_eq,
    beq_iff_eq, Bool.not_eq_true', and_assoc]
  simp only [Config.window, List.forall_mem_cons, List.not_mem_nil, false_implies, implies_true, and_true, and_assoc]

/-! ### Input turned away -/

/-- The word of SAMPLE, spelled as a concatenation (30_encoding.md R110). -/
theorem encode_sample (x : BitVec 16) : encode (.sample x) = 0x1000#16 ++ x := by
  rw [encode, packWord, ← BitVec.setWidth_eq (0x1000#16 ++ x), BitVec.setWidth_append_eq_shiftLeft_setWidth_or]
  rfl

/-- Settles O17. -/
theorem inputTurnedAway : Obligations.InputTurnedAway := by
  refine ⟨fun s ended => ⟨exec_sample_terminal ended, exec_byte_terminal ended, exec_eos_terminal ended⟩,
    fun s x running pending => ?_⟩
  rw [exec_sample_pending running pending, reject_eq, encode_sample]

/-- A zero passes the gate after a sound, unless it completes the run (45_session_driver.md R271). -/
theorem gatePasses_zero_iff (s : State) :
    gatePasses 0 s ↔ s.session.started = true ∧ s.session.zrun.toNat ≠ 999 :=
  or_iff_right (not_not.mpr rfl)

/-- A leading zero changes nothing (45_session_driver.md R271). -/
theorem SampleEffect.of_leadingZero {s t : State} (effect : SampleEffect 0 s t)
    (unstarted : s.session.started = false) : t = s := by
  have blocked : ¬ gatePasses 0 s := by rw [gatePasses_zero_iff, unstarted]; nofun
  cases effect with
  | leadingZero _ _ => rfl
  | silence started _ _ => exact nomatch unstarted.symm.trans started
  | noCell passes _ | cell passes _ => exact absurd passes blocked

/-- The 1000th interior zero ends the session (45_session_driver.md R271). -/
theorem SampleEffect.of_lastZero {s t : State} (effect : SampleEffect 0 s t) (started : s.session.started = true)
    (atLimit : s.session.zrun = 999) : t = terminate .silenceTimeout (setGate true 1000 s) := by
  have blocked : ¬ gatePasses 0 s := by rw [gatePasses_zero_iff, atLimit]; exact fun h => h.2 rfl
  cases effect with
  | leadingZero unstarted _ => exact nomatch unstarted.symm.trans started
  | silence _ _ _ => rfl
  | noCell passes _ | cell passes _ => exact absurd passes blocked

/-- Settles O18. -/
theorem silenceGateDropsZeros : Obligations.SilenceGateDropsZeros := by
  intro s running idle
  have effect := sampleStep_effect 0 running
  rw [exec_sample_running running idle]
  refine ⟨fun unstarted => ?_, fun started atLimit => ?_⟩
  · rw [effect.of_leadingZero unstarted, respond]
  · rw [effect.of_lastZero started atLimit, terminate_eq, setGate, respond, ← started]
    rfl

end Sys2Proof.Machine

/-! SAMPLE: what a passed sample leaves with and without a cell event, and the correlation sums it decides by. -/

namespace Sys2Proof.Machine

/-! ### A passed sample -/

/-- Settles O19: of the four effects only the one without a cell event is left. -/
theorem sampleWithoutCellEvent : Obligations.SampleWithoutCellEvent := by
  intro s x running idle passes within
  have stays : sampleStep x s = beforeWrap x s := by
    generalize sampled : sampleStep x s = t
    have effect := sampled ▸ sampleStep_effect x running
    cases effect with
    | leadingZero unstarted zero =>
      exact absurd zero (passes.resolve_right fun h => nomatch unstarted.symm.trans h.1)
    | silence _ zero atLimit => exact absurd zero (passes.resolve_right fun h => h.2 (by rw [atLimit]; rfl))
    | noCell _ _ => rfl
    | cell _ past => exact nomatch within.symm.trans past
  rw [exec_sample_running running idle, stays]
  rfl

/-- Settles O20: the one cell event runs after the wrap, and its frame is the rest. -/
theorem sampleWithCellEvent : Obligations.SampleWithCellEvent := by
  intro s x running idle passes past
  have frame := cellEvent_cellFrame (decisionOf x s) { beforeWrap x s with timing := wrappedTiming x s }
  have wraps : sampleStep x s
      = cellEvent (decisionOf x s) { beforeWrap x s with timing := wrappedTiming x s } := by
    generalize sampled : sampleStep x s = t
    have effect := sampled ▸ sampleStep_effect x running
    cases effect with
    | leadingZero unstarted zero =>
      exact absurd zero (passes.resolve_right fun h => nomatch unstarted.symm.trans h.1)
    | silence _ zero atLimit => exact absurd zero (passes.resolve_right fun h => h.2 (by rw [atLimit]; rfl))
    | noCell _ within => exact nomatch past.symm.trans within
    | cell _ _ => rfl
  rw [exec_sample_running running idle, wraps]
  exact ⟨_, rfl, rfl, frame.corr, frame.timing, rfl, frame.started, frame.zrun, frame.pend, frame.lobyte, frame.errc,
    frame.evcmd, frame.cfg, frame.input, congrArg (· ++ [0]) frame.resp⟩

/-! ### The sums -/

/-- An inner product over the first `n` table entries (40_correlator.md R155). -/
def partialSum (size base : Nat) (k : Correlator) (table : List B64) (n : Nat) : B64 :=
  (List.range n).foldl (fun acc j => fAdd acc (fMul (ringRead k ((base + j) % size)) (romRead table j))) (fZero false)

theorem partialSum_succ (size base : Nat) (k : Correlator) (table : List B64) (n : Nat) :
    partialSum size base k table (n + 1)
      = fAdd (partialSum size base k table n) (fMul (ringRead k ((base + n) % size)) (romRead table n)) := by
  simp [partialSum, List.range_succ]

theorem corrBase_eq (align : CorrAlign) (old : Nat) (k : Correlator) :
    corrBase align old k = if align = .after then k.cur else old := by
  cases align <;> rfl

/-- Settles O23: each sum is its own chain of running sums. -/
theorem sumsAccumulateInTableOrder : Obligations.SumsAccumulateInTableOrder := by
  intro c old k base sums
  have accumulates (table : List B64) : ∃ acc : Nat → B64, acc 0 = 0x0000000000000000
      ∧ (∀ j, j < c.window →
        acc (j + 1) = fAdd (acc j) (fMul (ringRead k ((base + j) % c.window)) (romRead table j)))
      ∧ innerProduct c.window (corrBase c.align old k) k table = acc c.window :=
    ⟨partialSum c.window base k table, show fZero false = 0 by decide, fun j _ => partialSum_succ _ _ _ _ j,
      by rw [corrBase_eq]; rfl⟩
  simp only [List.forall_mem_cons, List.not_mem_nil, false_implies, implies_true, and_true]
  exact ⟨accumulates c.rom.ms, accumulates c.rom.mc, accumulates c.rom.ss, accumulates c.rom.sc⟩

end Sys2Proof.Machine

/-! Front end and back end: what a sample does to gate, correlator and timing is a function of those alone. -/

namespace Sys2Proof.Machine

/-- The part of the state upstream of the frame state machine (00_scope.md R3). -/
structure FrontEnd where
  corr : Correlator
  timing : Timing
  started : Bool
  zrun : BitVec 10

/-- The front end of a state. -/
def State.frontEnd (s : State) : FrontEnd := ⟨s.corr, s.timing, s.session.started, s.session.zrun⟩

/-- The timing registers of a passed sample, wrapped where it is due (42_timing_recovery.md R193). -/
def passedTiming (x : BitVec 16) (s : State) : Timing :=
  if fGt (phaseBeforeWrap x s) fOne then wrappedTiming x s
  else { dbit := decisionOf x s, phase := phaseBeforeWrap x s }

/-- The front end a sample leaves: the gate's part, then the correlator's and the timing's (45_session_driver.md R271,
R272). -/
def frontAfter (x : BitVec 16) (s : State) : FrontEnd :=
  if x ≠ 0 ∨ (s.session.started = true ∧ s.session.zrun.toNat ≠ 999) then
    ⟨ringPush s.cfg.window (normalize x) s.corr, passedTiming x s, true, zrunAfter x s⟩
  else ⟨s.corr, s.timing, s.session.started, if s.session.started then 1000 else s.session.zrun⟩

theorem SampleEffect.frontEnd_eq {x : BitVec 16} {s t : State} (effect : SampleEffect x s t) :
    t.frontEnd = frontAfter x s := by
  unfold frontAfter
  cases effect with
  | leadingZero unstarted zero =>
    rw [if_neg (by simp [unstarted, zero])]
    simp [State.frontEnd, unstarted]
  | silence started zero atLimit =>
    rw [if_neg (by simp [zero, atLimit])]
    simp [State.frontEnd, started, terminate_eq]
  | noCell passes within =>
    refine Eq.trans ?_ (if_pos passes).symm
    rw [passedTiming, within]
    rfl
  | cell passes past =>
    have frame := cellEvent_cellFrame (decisionOf x s) { beforeWrap x s with timing := wrappedTiming x s }
    refine Eq.trans ?_ (if_pos passes).symm
    rw [passedTiming, past, if_pos rfl, State.frontEnd, frame.corr, frame.timing, frame.started, frame.zrun]
    rfl

/-- Nothing downstream of the timing recovery is read (00_scope.md R3). -/
theorem frontAfter_congr {s t : State} (x : BitVec 16) (cfg : s.cfg = t.cfg) (front : s.frontEnd = t.frontEnd) :
    frontAfter x s = frontAfter x t := by
  obtain ⟨c, ⟨_, started, zrun, _, _, _⟩, _, corr, timing, _, _, _, _, _⟩ := s
  obtain ⟨c', ⟨_, started', zrun', _, _, _⟩, _, corr', timing', _, _, _, _, _⟩ := t
  obtain rfl : c = c' := cfg
  cases front
  rfl

/-- Settles O58: both front ends are the same function of equal parts. -/
theorem frontEndIgnoresBackEnd : Obligations.FrontEndIgnoresBackEnd := by
  intro s t s' t' x cfg corr timing started zrun runningS runningT idleS idleT runsS runsT
  cases (exec_sample_running runningS idleS x).symm.trans runsS
  cases (exec_sample_running runningT idleT x).symm.trans runsT
  have same : (sampleStep x s).frontEnd = (sampleStep x t).frontEnd := by
    rw [(sampleStep_effect x runningS).frontEnd_eq, (sampleStep_effect x runningT).frontEnd_eq]
    exact frontAfter_congr x cfg (by rw [State.frontEnd, State.frontEnd, corr, timing, started, zrun])
  simp only [State.frontEnd, FrontEnd.mk.injEq] at same
  exact same

end Sys2Proof.Machine

/-! Sessions: the moves of FSTATE, the ways a session ends, and runs of zero samples. -/

namespace Sys2Proof.Machine

/-! ### FSTATE -/

/-- The moves of 43_frame_fsm.md R211, and staying. -/
def FrameMove (f g : FrameState) : Prop :=
  g = f ∨ (f = .channelSeize ∧ g = .sync) ∨ (f = .sync ∧ g = .data) ∨ (f = .carrierSignal ∧ g = .data)

theorem cellEvent_frameMove (bit : Bool) (s : State) :
    FrameMove s.framer.fstate (cellEvent bit s).framer.fstate := by
  cases state : s.framer.fstate with
  | channelSeize =>
    rw [cellEvent_of_channelSeize state]
    obtain ⟨c, -, counted⟩ | synced := seizeStep_cases s.framer bit
    · rw [counted]
      exact .inl state
    · rw [synced]
      exact .inr (.inl ⟨rfl, rfl⟩)
  | carrierSignal =>
    rw [cellEvent_of_carrierSignal state]
    unfold carrierStep
    dsimp only
    generalize (if bit = true then s.framer.cnt + 1 else 0) = c
    split
    · exact .inr (.inr (.inr ⟨rfl, rfl⟩))
    · exact .inl state
  | sync =>
    rw [cellEvent_of_sync state]
    unfold syncStep
    dsimp only
    split
    · exact .inr (.inr (.inl ⟨rfl, rfl⟩))
    · exact .inl state
  | data =>
    rw [cellEvent_of_data state]
    exact .inl ((congrArg Framer.fstate (assembleBit_framer _ s)).trans state)

theorem SampleEffect.frameMove {x : BitVec 16} {s t : State} (effect : SampleEffect x s t) :
    FrameMove s.framer.fstate t.framer.fstate := by
  cases effect with
  | leadingZero _ _ | silence _ _ _ | noCell _ _ => exact .inl rfl
  | cell _ _ => exact cellEvent_frameMove _ { beforeWrap x s with timing := wrappedTiming x s }

theorem ExecEffect.frameMove {i : Instr} {s t : State} (effect : ExecEffect s i t) (keeps : i ≠ .reset) :
    FrameMove s.framer.fstate t.framer.fstate := by
  cases effect with
  | answered _ _ | rejected _ _ _ | latched _ _ | ended _ => exact .inl rfl
  | reset => exact absurd rfl keeps
  | sampled x running _ => exact (sampleStep_effect x (s := unpaired s) running).frameMove

/-- A command at the head of the inputs is a reset exactly where it is RESET (70_reset_and_hazards.md R380). -/
theorem resetIsNext_command {s : State} {w : Word} {rest : List Input} (oldest : s.input = .command w :: rest) :
    s.resetIsNext ↔ w = 0x40000000 := by
  simp [State.resetIsNext, oldest]

theorem not_wellFormed_ne_reset {w : Word} (malformed : wellFormedWord w = false) : w ≠ 0x40000000 := by
  rintro rfl
  exact absurd malformed (by decide)

/-- Settles O35: no effect but a reset's leaves the moves of R211. -/
theorem frameStateMovesForward : Obligations.FrameStateMovesForward := by
  intro s t steps
  cases step_effect steps with
  | idle none => exact ⟨fun isReset => by simp [State.resetIsNext, none] at isReset, fun _ => .inl rfl⟩
  | illegal w rest oldest malformed =>
    rw [resetIsNext_command oldest]
    exact ⟨fun isReset => absurd isReset (not_wellFormed_ne_reset malformed), fun _ => .inl rfl⟩
  | command i rest _ oldest effect =>
    rw [resetIsNext_command oldest, encode_eq_reset_iff]
    refine ⟨fun isReset => ?_, fun notReset => effect.frameMove notReset⟩
    subst isReset
    cases effect with
    | answered _ keeps | sampled _ _ keeps => exact absurd rfl keeps
    | reset => rfl
  | rst rest oldest => exact ⟨fun _ => rfl, fun notReset => absurd (.inl (by rw [oldest]; rfl)) notReset⟩

/-! ### A session that has ended -/

/-- Settles O53: after the end only an answer, a rejection or a reset is left. -/
theorem terminalStateIsLeftOnlyByReset : Obligations.TerminalStateIsLeftOnlyByReset := by
  intro s t ended notReset steps
  cases step_effect steps with
  | idle none => exact ⟨by rw [none, List.tail_nil, ← none], .inl rfl⟩
  | illegal w rest oldest malformed =>
    refine ⟨by rw [oldest]; rfl, .inr ⟨w, by rw [oldest]; rfl, malformed, rfl⟩⟩
  | command i rest _ oldest effect =>
    rw [resetIsNext_command oldest, encode_eq_reset_iff] at notReset
    cases effect with
    | answered w _ => exact ⟨by rw [oldest]; rfl, .inl rfl⟩
    | rejected _ running _ | latched _ running | ended running | sampled _ running _ => exact absurd running ended
    | reset => exact absurd rfl notReset
  | rst rest oldest => exact absurd (.inl (by rw [oldest]; rfl)) notReset

/-! ### How a running session ends -/

theorem SymbolTaken.payload_eq {m m' : Assembler} (taken : SymbolTaken m m') : m'.pay = m.pay := by
  cases taken with
  | valid reg eq | invalid reg eq => rw [eq]

/-- How a cell event can end a running session from `s` (44_nibble_byte_assembler.md R245, R249). -/
inductive CellEnding (s t : State) : Prop where
  | completed (res : t.session.res = if t.assembler.invn = true then .degraded else .success)
      (due : frameDue t.assembler) (length : t.session.reslen = t.assembler.bcnt)
  | overflow (res : t.session.res = .overflow) (full : s.cfg.capacity ≤ s.assembler.bcnt.toNat)
      (bcnt : t.assembler.bcnt = s.assembler.bcnt) (pay : t.assembler.pay = s.assembler.pay)

/-- A cell event leaves RES or ends the session in one of two ways. -/
theorem cellEvent_ending (bit : Bool) (s : State) :
    (cellEvent bit s).session.res = s.session.res ∨ CellEnding s (cellEvent bit s) := by
  obtain ⟨session, -⟩ | effect := cellEvent_effect bit s
  · exact .inl (by rw [session])
  · cases effect with
    | shifted _ _ _ session | highNibble _ _ _ _ _ session => exact .inl (by rw [session])
    | byte u m v taken _ assembler session cfg stored =>
      cases stored with
      | overflow full kept ends =>
        have bcnt : u.assembler.bcnt = s.assembler.bcnt := by rw [assembler]; exact taken.counters.2.2
        have pay : u.assembler.pay = s.assembler.pay := by rw [assembler]; exact taken.payload_eq
        exact .inr (.overflow (by rw [ends]) (bcnt ▸ cfg ▸ full) (by rw [kept, bcnt]) (by rw [kept, pay]))
      | stored _ _ _ same => exact .inl (by rw [same, session])
      | completed _ _ due ends => exact .inr (.completed (by rw [ends]) due (by rw [ends]))

/-- Settles O54: of the effects on a running session only EOS, the last zero and a cell event end it. -/
theorem sessionEndsInFourWays : Obligations.SessionEndsInFourWays := by
  intro s t running steps ends
  cases step_effect steps with
  | idle _ => exact absurd running ends
  | illegal w rest _ _ => exact absurd running ends
  | rst rest _ => exact absurd rfl ends
  | command i rest _ oldest effect =>
    cases effect with
    | answered _ _ | rejected _ _ _ | latched _ _ => exact absurd running ends
    | reset => exact absurd rfl ends
    | ended _ => exact .inl ⟨rfl, by rw [oldest]; rfl⟩
    | sampled x _ _ =>
      have effect := sampleStep_effect x (s := unpaired { s with input := rest }) running
      generalize sampleStep x (unpaired { s with input := rest }) = u at effect ends ⊢
      cases effect with
      | leadingZero _ _ | noCell _ _ => exact absurd running ends
      | silence started _ atLimit => exact .inr (.inl ⟨rfl, started, atLimit, rfl⟩)
      | cell _ _ =>
        refine .inr (.inr ?_)
        obtain same | ending := cellEvent_ending (decisionOf x (unpaired { s with input := rest }))
          { beforeWrap x (unpaired { s with input := rest }) with
            timing := wrappedTiming x (unpaired { s with input := rest }) }
        · exact absurd (same.trans running) ends
        · cases ending with
          | completed res due length => exact .inl ⟨res, due.1, due.2, length⟩
          | overflow res full bcnt pay => exact .inr ⟨res, full, bcnt, pay⟩

/-! ### Runs of zero samples -/

/-- The first `SAMPLE 0` of a run is served as such. -/
theorem step_zeroSample {s : State} {rest : List Input} (legal : s.cfg.legal = true)
    (oldest : s.input = .command 0x10000000 :: rest) : step s = exec (.sample 0) { s with input := rest } := by
  rw [step_command legal oldest, serveCommand_of_ok (i := .sample 0) (by decide)]

/-- A leading zero is answered and nothing else changed (45_session_driver.md R271). -/
theorem step_leadingZero {s : State} {rest : List Input} (legal : s.cfg.legal = true)
    (running : s.session.res = .running) (idle : s.session.pend = false) (unstarted : s.session.started = false)
    (oldest : s.input = .command 0x10000000 :: rest) :
    step s = .next { s with input := rest, resp := s.resp ++ [0] } := by
  let u : State := { s with input := rest }
  have dropped : sampleStep 0 u = u := (sampleStep_effect 0 (s := u) running).of_leadingZero unstarted
  have runs := exec_sample_running (s := u) running idle 0
  rw [dropped] at runs
  exact (step_zeroSample legal oldest).trans runs

/-- A run goes on from the state its first step leaves. -/
theorem runSteps_succ {s t : State} (steps : step s = .next t) (k : Nat) : runSteps (k + 1) s = runSteps k t := by
  change (match step s with | .next t => runSteps k t | o => o) = runSteps k t
  rw [steps]

/-- A run that begins with leading zeros is the run without them (45_session_driver.md R276). -/
theorem runSteps_leadingZeros (n m : Nat) {s : State} {rest : List Input} (legal : s.cfg.legal = true)
    (running : s.session.res = .running) (idle : s.session.pend = false) (unstarted : s.session.started = false)
    (input : s.input = zeroSamples n ++ rest) :
    runSteps (m + n) s = runSteps m { s with input := rest, resp := s.resp ++ List.replicate n 0 } := by
  induction n generalizing s with
  | zero =>
    obtain rfl : s.input = rest := input
    rw [List.replicate_zero, List.append_nil, Nat.add_zero]
  | succ n ih =>
    have first := step_leadingZero legal running idle unstarted input
    rw [← Nat.add_assoc, runSteps_succ first]
    refine (ih (s := { s with input := zeroSamples n ++ rest, resp := s.resp ++ [0] }) legal running idle unstarted
      rfl).trans ?_
    simp only [List.append_assoc, List.replicate_succ, List.singleton_append]

/-- Settles O56: the run without the zeros has no step left, or the one of EOS. -/
theorem leadingZerosAreFree : Obligations.LeadingZerosAreFree := by
  intro n s rest legal running idle unstarted input
  refine ⟨?_, ?_⟩
  · have run := runSteps_leadingZeros n 0 legal running idle unstarted input
    rwa [Nat.zero_add] at run
  · rintro rfl
    have run := runSteps_leadingZeros n 1 legal running idle unstarted input
    let u : State := { s with input := [.command 0x30000000], resp := s.resp ++ List.replicate n 0 }
    have last : step u = .next (respond 0 (endOfStream { u with input := [] })) := by
      rw [step_command (s := u) legal rfl, serveCommand_of_ok (i := .eos) (by decide)]
      exact exec_eos_running (s := { u with input := [] }) running
    rw [Nat.add_comm n 1, run, runSteps_succ last]
    exact ⟨_, rfl, rfl, rfl⟩

/-- A zero of a session that has ended is answered and nothing else changed (46_host_commands.md R310). -/
theorem runSteps_ended (n : Nat) {s : State} {rest : List Input} (legal : s.cfg.legal = true)
    (ended : s.session.res ≠ .running) (input : s.input = zeroSamples n ++ rest) :
    runSteps n s = .next { s with input := rest, resp := s.resp ++ List.replicate n 0 } := by
  induction n generalizing s with
  | zero =>
    obtain rfl : s.input = rest := input
    rw [List.replicate_zero, List.append_nil]
    rfl
  | succ n ih =>
    have first : step s = .next (respond 0 { s with input := zeroSamples n ++ rest }) := by
      rw [step_zeroSample legal input]
      exact exec_sample_terminal (s := { s with input := zeroSamples n ++ rest }) ended 0
    rw [runSteps_succ first]
    refine (ih (s := respond 0 { s with input := zeroSamples n ++ rest }) legal ended rfl).trans ?_
    simp only [respond, List.append_assoc, List.replicate_succ, List.singleton_append]

/-- A session ended by a frame: completed or overflowed (45_session_driver.md R275). -/
def FrameEnded (s : State) : Prop :=
  s.session.res = .success ∨ s.session.res = .degraded ∨ s.session.res = .overflow

theorem FrameEnded.not_running {s : State} (h : FrameEnded s) : s.session.res ≠ .running := by
  obtain h | h | h := h <;> rw [h] <;> nofun

theorem CellEnding.frameEnded {s t : State} (ending : CellEnding s t) : FrameEnded t := by
  cases ending with
  | overflow res _ _ _ => exact .inr (.inr res)
  | completed res _ _ =>
    rw [FrameEnded, res]
    cases t.assembler.invn
    · exact .inl rfl
    · exact .inr (.inl rfl)

/-- A running session within a run of `z` zeros. -/
structure InZeroRun (z : Nat) (s : State) : Prop where
  legal : s.cfg.legal = true
  running : s.session.res = .running
  idle : s.session.pend = false
  started : s.session.started = true
  zrun : s.session.zrun.toNat = z

/-- An interior zero below the limit makes the run one longer, unless its cell ends the frame (45_session_driver.md
R271). -/
theorem InZeroRun.step {z : Nat} {s : State} {rest : List Input} (run : InZeroRun z s) (below : z < 999)
    (oldest : s.input = .command 0x10000000 :: rest) :
    ∃ t, step s = .next t ∧ t.input = rest ∧ t.cfg.legal = true ∧ (InZeroRun (z + 1) t ∨ FrameEnded t) := by
  obtain ⟨legal, running, idle, started, zrun⟩ := run
  let u : State := { s with input := rest }
  have next : (s.session.zrun + 1).toNat = z + 1 := by bv_omega
  have front (timing : Timing) : InZeroRun (z + 1) { beforeWrap 0 u with timing := timing } :=
    ⟨legal, running, idle, rfl, next⟩
  refine ⟨respond 0 (sampleStep 0 u), ?_, ?_⟩
  · rw [step_zeroSample legal oldest]
    exact exec_sample_running (s := u) running idle 0
  · have effect := sampleStep_effect 0 (s := u) running
    have input : (sampleStep 0 u).input = rest := (sampleStep_portsKept 0 u).input
    refine ⟨input, ?_⟩
    clear input
    generalize sampleStep 0 u = t at effect ⊢
    cases effect with
    | leadingZero unstarted _ => exact nomatch unstarted.symm.trans started
    | silence _ _ atLimit =>
      have : s.session.zrun.toNat = 999 := by rw [show s.session.zrun = 999 from atLimit]; rfl
      omega
    | noCell _ _ => exact ⟨legal, .inl ⟨legal, running, idle, rfl, next⟩⟩
    | cell _ _ =>
      obtain ⟨legal, running, idle, started, zrun⟩ := front (wrappedTiming 0 u)
      have frame := cellEvent_cellFrame (decisionOf 0 u) { beforeWrap 0 u with timing := wrappedTiming 0 u }
      refine ⟨(congrArg Config.legal frame.cfg).trans legal, ?_⟩
      obtain same | ending := cellEvent_ending (decisionOf 0 u) { beforeWrap 0 u with timing := wrappedTiming 0 u }
      · exact .inl ⟨(congrArg Config.legal frame.cfg).trans legal, same.trans running, frame.pend.trans idle,
          frame.started.trans started, (congrArg BitVec.toNat frame.zrun).trans zrun⟩
      · exact .inr ending.frameEnded

/-- The zero after a run of 999 ends the session with SilenceTimeout (45_session_driver.md R271). -/
theorem InZeroRun.last_step {s : State} {rest : List Input} (run : InZeroRun 999 s)
    (oldest : s.input = .command 0x10000000 :: rest) :
    ∃ t, Machine.step s = .next t ∧ t.input = rest ∧ t.session.res = .noResultSilence ∧ t.session.zrun = 1000
      ∧ t.session.reslen = 0 := by
  obtain ⟨legal, running, idle, started, zrun⟩ := run
  have effect := sampleStep_effect 0 (s := { s with input := rest }) running
  have atLimit : s.session.zrun = 999 := BitVec.eq_of_toNat_eq zrun
  rw [step_zeroSample legal oldest, exec_sample_running (s := { s with input := rest }) running idle,
    effect.of_lastZero started atLimit]
  exact ⟨_, rfl, rfl, rfl, rfl, rfl⟩

/-- Zeros up to the limit end the session, by induction on how many are left (45_session_driver.md R276). -/
theorem InZeroRun.runSteps {n z : Nat} {s : State} {rest : List Input} (run : InZeroRun z s)
    (left : z + (n + 1) = 1000) (input : s.input = zeroSamples (n + 1) ++ rest) :
    ∃ t, Machine.runSteps (n + 1) s = .next t ∧ t.input = rest
      ∧ ((t.session.res = .noResultSilence ∧ t.session.zrun = 1000 ∧ t.session.reslen = 0) ∨ FrameEnded t) := by
  induction n generalizing z s with
  | zero =>
    obtain rfl : z = 999 := by omega
    obtain ⟨t, steps, input', silent⟩ := run.last_step input
    exact ⟨t, runSteps_succ steps 0, input', .inl silent⟩
  | succ n ih =>
    obtain ⟨t, steps, input', legal, longer | ended⟩ := run.step (by omega) input
    · obtain ⟨u, runs, rest⟩ := ih longer (by omega) input'
      exact ⟨u, (runSteps_succ steps _).trans runs, rest⟩
    · exact ⟨_, (runSteps_succ steps _).trans (runSteps_ended (n + 1) legal ended.not_running input'), rfl,
        .inr ended⟩

/-- Settles O55. -/
theorem silenceRunEndsSession : Obligations.SilenceRunEndsSession := by
  intro s rest legal running idle started below input
  obtain ⟨n, left⟩ := Nat.exists_eq_add_of_lt below
  have count : 1000 - s.session.zrun.toNat = n + 1 := by omega
  rw [count] at input ⊢
  exact InZeroRun.runSteps ⟨legal, running, idle, started, rfl⟩ (by omega) input

end Sys2Proof.Machine

/-! Cells as numbers: a run of cells shifted into a register, and the sync word. -/

namespace Sys2Proof.Machine

/-! ### Shifting a run of cells -/

/-- A register after a run of cells, first cell first (20_memory.md R85). -/
def shiftCells {n : Nat} (r : BitVec n) (bits : List Bool) : BitVec n :=
  bits.foldl (fun r bit => shiftIn r (lineBit bit)) r

theorem shiftCells_concat {n : Nat} (r : BitVec n) (bits : List Bool) (bit : Bool) :
    shiftCells r (bits ++ [bit]) = shiftIn (shiftCells r bits) (lineBit bit) := by
  simp [shiftCells]

theorem runCells_concat (bits : List Bool) (bit : Bool) (s : State) :
    runCells (bits ++ [bit]) s = cellEvent bit (runCells bits s) := by
  simp [runCells]

theorem runCells_append (front back : List Bool) (s : State) :
    runCells (front ++ back) s = runCells back (runCells front s) := by
  simp [runCells]

/-- A shift doubles the register and adds the line bit, which is 1 for a space (00_scope.md R13). -/
theorem toNat_shiftIn {n : Nat} (r : BitVec (n + 1)) (bit : Bool) :
    (shiftIn r (lineBit bit)).toNat = (2 * r.toNat + (!bit).toNat) % 2 ^ (n + 1) := by
  have line : (lineBit bit).toNat = (!bit).toNat := by cases bit <;> rfl
  have small : (!bit).toNat < 2 := by cases bit <;> decide
  rw [shiftIn_eq_append, BitVec.toNat_append, ← Nat.shiftLeft_add_eq_or_of_lt (lineBit bit).isLt, line,
    BitVec.extractLsb'_toNat, Nat.shiftRight_zero, Nat.shiftLeft_eq, pow_one, pow_succ', Nat.mod_mul,
    Nat.mul_add_mod, Nat.mod_eq_of_lt small, Nat.mul_add_div Nat.two_pos, Nat.div_eq_of_lt small]
  simp only [Nat.add_zero]
  ring

/-- The last cell of a value is its bit 0; the cells before it are those of the other bits. -/
theorem valueCells_succ (n v : Nat) : valueCells (n + 1) v = valueCells n (v / 2) ++ [!(v.testBit 0)] := by
  simp only [valueCells, List.range_succ, List.map_append, List.map_cons, List.map_nil]
  congr 1
  · refine List.map_congr_left fun i hi => ?_
    have below := List.mem_range.mp hi
    rw [Nat.testBit_div_two, show n - 1 - i + 1 = n + 1 - 1 - i by omega]
  · simp

theorem length_valueCells (n v : Nat) : (valueCells n v).length = n := by
  simp [valueCells]

/-- The cells of an n-bit value leave that value in an n-bit register, whatever it held. -/
theorem toNat_shiftCells_valueCells {w : Nat} (r : BitVec (w + 1)) (n v : Nat) :
    (shiftCells r (valueCells n v)).toNat = (r.toNat * 2 ^ n + v % 2 ^ n) % 2 ^ (w + 1) := by
  induction n generalizing v with
  | zero => simp [valueCells, shiftCells, Nat.mod_one]
  | succ n ih =>
    have low : (!!(v.testBit 0)).toNat = v % 2 := by
      rw [Bool.not_not, Nat.testBit_zero]
      rcases Nat.mod_two_eq_zero_or_one v with h | h <;> simp [h]
    rw [valueCells_succ, shiftCells_concat, toNat_shiftIn, ih, low, pow_succ' 2 n, Nat.mod_mul, Nat.add_mod,
      Nat.mul_mod_mod, ← Nat.add_mod]
    congr 1
    ring

/-- The value of the cells in a cleared register that has room for them. -/
theorem valueCells_shiftCells {w : Nat} (bits : List Bool) (fits : bits.length ≤ w + 1) :
    (shiftCells (0 : BitVec (w + 1)) bits).toNat < 2 ^ bits.length
      ∧ valueCells bits.length (shiftCells (0 : BitVec (w + 1)) bits).toNat = bits := by
  induction bits using List.reverseRecOn with
  | nil => exact ⟨by simp [shiftCells], rfl⟩
  | append_singleton bits bit ih =>
    rw [List.length_append, List.length_singleton] at fits ⊢
    obtain ⟨small, same⟩ := ih (by omega)
    have line : (!bit).toNat < 2 := by cases bit <;> decide
    have room : 2 ^ (bits.length + 1) ≤ 2 ^ (w + 1) := Nat.pow_le_pow_right Nat.two_pos fits
    have value : (shiftCells (0 : BitVec (w + 1)) (bits ++ [bit])).toNat
        = 2 * (shiftCells (0 : BitVec (w + 1)) bits).toNat + (!bit).toNat := by
      rw [pow_succ] at room
      rw [shiftCells_concat, toNat_shiftIn, Nat.mod_eq_of_lt (by omega)]
    rw [value, pow_succ, valueCells_succ]
    refine ⟨by omega, ?_⟩
    congr 1
    · rw [show (2 * (shiftCells (0 : BitVec (w + 1)) bits).toNat + (!bit).toNat) / 2
        = (shiftCells (0 : BitVec (w + 1)) bits).toNat by omega, same]
    · rw [Nat.testBit_zero]
      cases bit <;> simp

/-! ### The sync word -/

/-- SYNC_STEP shifts its cell in, and enters Data exactly where the register is then the sync word. -/
theorem cellEvent_sync_register {s : State} (inSync : s.framer.fstate = .sync) (bit : Bool) :
    (cellEvent bit s).framer.syncreg = shiftIn s.framer.syncreg (lineBit bit)
      ∧ (cellEvent bit s).framer.fstate
        = if shiftIn s.framer.syncreg (lineBit bit) = syncWord then .data else .sync := by
  rw [cellEvent_of_sync inSync, syncStep_eq inSync]
  exact ⟨rfl, rfl⟩

/-- The first cell of the sync word is a line bit 1, so no register of fewer cells holds it (43_frame_fsm.md R218). -/
theorem runCells_sync {s : State} {bits : List Bool} (inSync : s.framer.fstate = .sync)
    (cleared : s.framer.syncreg = 0) (few : bits.length ≤ 15) :
    (runCells bits s).framer.fstate = .sync ∧ (runCells bits s).framer.syncreg = shiftCells 0 bits := by
  induction bits using List.reverseRecOn with
  | nil => exact ⟨inSync, cleared⟩
  | append_singleton bits bit ih =>
    rw [List.length_append, List.length_singleton] at few
    obtain ⟨searching, register⟩ := ih (by omega)
    obtain ⟨shifted, state⟩ := cellEvent_sync_register searching bit
    rw [register, ← shiftCells_concat] at shifted state
    have small := (valueCells_shiftCells (w := 15) (bits ++ [bit]) (by simp; omega)).1
    have notYet : shiftCells (0 : BitVec 16) (bits ++ [bit]) ≠ syncWord := by
      intro found
      have bound : 2 ^ (bits ++ [bit]).length ≤ 2 ^ 15 := Nat.pow_le_pow_right Nat.two_pos (by simpa using few)
      rw [found] at small
      exact absurd (small.trans_le bound) (by decide)
    rw [runCells_concat, state, if_neg notYet]
    exact ⟨rfl, shifted⟩

/-- Settles O34: the register holds the cells, and sixteen of them are the sync word's exactly where it holds the sync
word. -/
theorem syncWordNeedsSixteenCells : Obligations.SyncWordNeedsSixteenCells := by
  refine fun s bits inSync cleared => ⟨fun few => (runCells_sync inSync cleared few).1, fun sixteen => ?_⟩
  obtain ⟨front, last, rfl⟩ := (List.eq_nil_or_concat' bits).resolve_left (by rintro rfl; cases sixteen)
  rw [List.length_append, List.length_singleton] at sixteen
  obtain ⟨searching, register⟩ := runCells_sync inSync cleared (bits := front) (by omega)
  obtain ⟨-, state⟩ := cellEvent_sync_register searching last
  have cells := (valueCells_shiftCells (w := 15) (front ++ [last]) (by simp; omega)).2
  rw [List.length_append, List.length_singleton, sixteen] at cells
  rw [register, ← shiftCells_concat] at state
  rw [runCells_concat, state]
  constructor
  · intro found
    have matched : shiftCells (0 : BitVec 16) (front ++ [last]) = syncWord := by
      by_contra other
      rw [if_neg other] at found
      cases found
    rw [← cells, matched]
    rfl
  · intro word
    have value := toNat_shiftCells_valueCells (0 : BitVec 16) 16 0xAB4D
    rw [if_pos]
    rw [word]
    exact BitVec.eq_of_toNat_eq value

/-! ### ChannelSeize and CarrierSignal -/

/-- Settles O31: below 31 the count passes a limit exactly where it stood at it. -/
theorem countingCellRules : Obligations.CountingCellRules := by
  intro s bit small
  have count : (s.framer.cnt + 1).toNat = s.framer.cnt.toNat + 1 := toNat_cnt_succ small
  refine ⟨fun seizing => ?_, fun carrier => ?_⟩
  · rw [cellEvent_of_channelSeize seizing]
    by_cases repeated : bit = s.framer.cbit
    · rw [repeated, seizeStep_repeat, if_pos rfl]
      rfl
    · obtain rfl : bit = !s.framer.cbit := Bool.eq_not.mpr repeated
      have limit : (s.framer.cnt + 1).toNat > seizeLimit ↔ s.framer.cnt.toNat = 30 := by
        rw [count, seizeLimit]
        omega
      rw [seizeStep_flip, if_neg repeated]
      simp only [limit]
      split <;> rfl
  · rw [cellEvent_of_carrierSignal carrier]
    cases bit with
    | false => rfl
    | true =>
      have limit : (s.framer.cnt + 1).toNat > carrierLimit ↔ 15 ≤ s.framer.cnt.toNat := by
        rw [count, carrierLimit]
        omega
      rw [if_neg Bool.true_eq_false_eq_False, carrierStep]
      simp only [if_true, limit]
      split <;> rfl

end Sys2Proof.Machine

/-! Data cells: six make a nibble, twelve a byte, and the bytes of a frame its payload. -/

namespace Sys2Proof.Machine

/-! ### A stored byte -/

/-- STORE_BYTE of a byte that is neither the second nor the last (44_nibble_byte_assembler.md R245). -/
theorem storeByte_plain {s : State} (room : s.assembler.bcnt.toNat < s.cfg.capacity) (other : s.assembler.bcnt ≠ 1)
    (v : Byte) : storeByte v s = completeIfDue (onAssembler (appendByte v) s) := by
  obtain ⟨full, -⟩ | ⟨-, -, stored⟩ | ⟨-, second, -⟩ := storeByte_cases v s
  · omega
  · exact stored
  · exact absurd (by bv_omega) other

/-- Settles O39. -/
theorem storeByteStoresOrOverflows : Obligations.StoreByteStoresOrOverflows := by
  refine fun s v canonical => ⟨fun room other early => ?_, fun full => ?_⟩
  · refine ⟨Memory.write s.assembler.pay s.assembler.bcnt.toNat v, ?_, Memory.write_wf canonical _ _,
      fun a => Memory.read_write canonical _ a v⟩
    rw [storeByte_plain room other, completeIfDue_of_not_due (s := onAssembler (appendByte v) s) early]
    rfl
  · obtain ⟨-, overflows⟩ | ⟨room, -⟩ | ⟨room, -⟩ := storeByte_cases v s
    · rw [overflows, terminate_eq]
      rfl
    · omega
    · omega

/-- Settles O41. -/
theorem lastByteCompletesFrame : Obligations.LastByteCompletesFrame := by
  intro s v canonical room other known last
  refine ⟨Memory.write s.assembler.pay s.assembler.bcnt.toNat v, ?_, Memory.write_wf canonical _ _,
    fun a => Memory.read_write canonical _ a v⟩
  rw [storeByte_plain room other, completeIfDue_of_due (s := onAssembler (appendByte v) s) ⟨known, last⟩,
    complete_eq]
  rfl

/-! ### Parts of the state that no stage of the assembler reads -/

/-- A change of the state that the assembler's stages neither see nor undo. -/
structure Passive (φ : State → State) : Prop where
  cfg (s : State) : (φ s).cfg = s.cfg
  assembler (s : State) : (φ s).assembler = s.assembler
  draws (s : State) : (φ s).draws = s.draws
  onAssembler (f : Assembler → Assembler) (s : State) : onAssembler f (φ s) = φ (onAssembler f s)
  setResult (r : Result) (n : BitVec 9) (s : State) : setResult r n (φ s) = φ (setResult r n s)
  report (e : Event) (w : Word) (s : State) : report e w (φ s) = φ (report e w s)
  setDraws (n : Nat) (s : State) : { φ s with draws := n } = φ { s with draws := n }

section
variable {φ : State → State} (passive : Passive φ)
include passive

theorem Passive.complete (s : State) : complete (φ s) = φ (complete s) := by
  simp only [Machine.complete, passive.assembler, passive.setResult, passive.report]

theorem Passive.completeIfDue (s : State) : completeIfDue (φ s) = φ (completeIfDue s) := by
  simp only [Machine.completeIfDue, passive.assembler, passive.complete]
  split <;> rfl

theorem Passive.lengthStep (s : State) : lengthStep (φ s) = φ (lengthStep s) := by
  simp only [Machine.lengthStep, passive.assembler, passive.onAssembler, passive.report]
  split <;> rfl

theorem Passive.terminate (e : Ending) (s : State) : terminate e (φ s) = φ (terminate e s) := by
  simp only [Machine.terminate, passive.cfg, passive.setResult, passive.report]

theorem Passive.storeByte (v : Byte) (s : State) : storeByte v (φ s) = φ (storeByte v s) := by
  simp only [Machine.storeByte, passive.cfg, passive.assembler, passive.terminate, passive.onAssembler]
  split
  · rfl
  · split
    · rw [passive.lengthStep, passive.completeIfDue]
    · exact passive.completeIfDue _

theorem Passive.nibbleIn (v : BitVec 4) (s : State) : nibbleIn v (φ s) = φ (nibbleIn v s) := by
  simp only [Machine.nibbleIn, passive.assembler, passive.onAssembler, passive.storeByte]
  split <;> rfl

theorem Passive.noteInvalid (sym : BitVec 6) (s : State) : noteInvalid sym (φ s) = φ (noteInvalid sym s) := by
  simp only [Machine.noteInvalid, passive.onAssembler, passive.draws, passive.setDraws, passive.report]

theorem Passive.decodeSymbol (sym : BitVec 6) (s : State) : decodeSymbol sym (φ s) = φ (decodeSymbol sym s) := by
  unfold Machine.decodeSymbol
  split
  · exact passive.nibbleIn _ s
  · rw [passive.noteInvalid, passive.draws, passive.nibbleIn]

theorem Passive.assembleBit (lb : BitVec 1) (s : State) : assembleBit lb (φ s) = φ (assembleBit lb s) := by
  simp only [Machine.assembleBit, passive.assembler, passive.onAssembler, passive.decodeSymbol]
  split <;> rfl

end

theorem passive_onFramer (g : Framer → Framer) : Passive (onFramer g) :=
  ⟨fun _ => rfl, fun _ => rfl, fun _ => rfl, fun _ _ => rfl, fun _ _ _ => rfl, fun _ _ _ => rfl, fun _ _ => rfl⟩

/-! ### The cells of one symbol -/

/-- NIBREG and NBC written. -/
def setSymbol (reg : BitVec 6) (count : BitVec 3) (m : Assembler) : Assembler := { m with nibreg := reg, nbc := count }

/-- Before the sixth line bit a cell shifts and counts (44_nibble_byte_assembler.md R240). -/
theorem cellEvent_shift {s : State} (inData : s.framer.fstate = .data) (early : s.assembler.nbc.toNat ≤ 4)
    (bit : Bool) :
    cellEvent bit s = onFramer (noteCell bit)
      (onAssembler (setSymbol (shiftIn s.assembler.nibreg (lineBit bit)) (s.assembler.nbc + 1)) s) := by
  have notLast : s.assembler.nbc.toNat + 1 ≠ 6 := by omega
  rw [cellEvent_of_data inData, assembleBit, if_neg notLast]
  rfl

/-- The sixth line bit hands the symbol on (44_nibble_byte_assembler.md R240). -/
theorem cellEvent_sixth {s : State} (inData : s.framer.fstate = .data) (fifth : s.assembler.nbc = 5) (bit : Bool) :
    cellEvent bit s = onFramer (noteCell bit) (decodeSymbol (shiftIn s.assembler.nibreg (lineBit bit))
      (onAssembler (setSymbol (shiftIn s.assembler.nibreg (lineBit bit)) 0) s)) := by
  have last : s.assembler.nbc.toNat + 1 = 6 := by rw [fifth]; rfl
  rw [cellEvent_of_data inData, assembleBit, if_pos last]
  rfl

/-- Up to five cells of a symbol shift and count (44_nibble_byte_assembler.md R240). -/
theorem runCells_shift {s : State} (inData : s.framer.fstate = .data) (start : s.assembler.nbc = 0)
    (bits : List Bool) (few : bits.length ≤ 5) :
    ∃ last, runCells bits s = onFramer (noteCell last)
      (onAssembler (setSymbol (shiftCells s.assembler.nibreg bits) (BitVec.ofNat 3 bits.length)) s) := by
  induction bits using List.reverseRecOn with
  | nil =>
    have zero : BitVec.ofNat 3 0 = s.assembler.nbc := start.symm
    exact ⟨s.framer.cbit, by rw [List.length_nil, zero]; rfl⟩
  | append_singleton bits bit ih =>
    rw [List.length_append, List.length_singleton] at few
    obtain ⟨last, run⟩ := ih (by omega)
    let u := onFramer (noteCell last)
      (onAssembler (setSymbol (shiftCells s.assembler.nibreg bits) (BitVec.ofNat 3 bits.length)) s)
    have count : u.assembler.nbc.toNat ≤ 4 := (Nat.mod_le _ _).trans (by omega)
    refine ⟨bit, ?_⟩
    rw [runCells_concat, run, shiftCells_concat, List.length_append, List.length_singleton, BitVec.ofNat_add]
    exact cellEvent_shift (s := u) inData count bit

/-- The six cells of a symbol hand it to the decoder; the framer keeps its state (44_nibble_byte_assembler.md R240). -/
theorem runCells_symbol {s : State} (inData : s.framer.fstate = .data) (start : s.assembler.nbc = 0) (sym : Nat) :
    runCells (valueCells 6 sym) s = onFramer (noteCell (!sym.testBit 0))
      (decodeSymbol (BitVec.ofNat 6 sym) (onAssembler (setSymbol (BitVec.ofNat 6 sym) 0) s)) := by
  have length := length_valueCells 5 (sym / 2)
  obtain ⟨last, run⟩ := runCells_shift inData start (valueCells 5 (sym / 2)) length.le
  have register : shiftCells s.assembler.nibreg (valueCells 6 sym) = BitVec.ofNat 6 sym := by
    refine BitVec.eq_of_toNat_eq ?_
    rw [toNat_shiftCells_valueCells (w := 5), BitVec.toNat_ofNat]
    omega
  rw [valueCells_succ, shiftCells_concat] at register
  rw [length] at run
  let u := onFramer (noteCell last)
    (onAssembler (setSymbol (shiftCells s.assembler.nibreg (valueCells 5 (sym / 2))) 5) s)
  have sixth := cellEvent_sixth (s := u) inData rfl (!sym.testBit 0)
  have decoded := (passive_onFramer (noteCell last)).decodeSymbol (BitVec.ofNat 6 sym)
    (onAssembler (setSymbol (BitVec.ofNat 6 sym) 0) s)
  rw [show shiftIn u.assembler.nibreg (lineBit !sym.testBit 0) = BitVec.ofNat 6 sym from register] at sixth
  rw [valueCells_succ, runCells_concat, run]
  exact sixth.trans ((congrArg (onFramer (noteCell (!sym.testBit 0))) decoded).trans rfl)

/-- SYMTAB reads back the symbol a transmitter sends (44_nibble_byte_assembler.md R242). -/
theorem symbolNibble_nibbleSymbol :
    ∀ v < 16, symbolNibble (BitVec.ofNat 6 (nibbleSymbol v)) = some (BitVec.ofNat 4 v) := by decide

theorem decodeSymbol_nibbleSymbol {v : Nat} (nibble : v < 16) (s : State) :
    decodeSymbol (BitVec.ofNat 6 (nibbleSymbol v)) s = nibbleIn (BitVec.ofNat 4 v) s := by
  rw [decodeSymbol, symbolNibble_nibbleSymbol v nibble]

/-- The first symbol of a byte leaves its nibble as the high half (44_nibble_byte_assembler.md R243). -/
theorem runCells_firstSymbol {s : State} {v : Nat} (nibble : v < 16) (inData : s.framer.fstate = .data)
    (start : s.assembler.nbc = 0) (first : s.assembler.hv = false) :
    runCells (valueCells 6 (nibbleSymbol v)) s = { s with
      framer := { s.framer with cbit := !((nibbleSymbol v).testBit 0) }
      assembler := { s.assembler with
        nibreg := BitVec.ofNat 6 (nibbleSymbol v), nbc := 0, hinib := BitVec.ofNat 4 v, hv := true } } := by
  let u := onAssembler (setSymbol (BitVec.ofNat 6 (nibbleSymbol v)) 0) s
  rw [runCells_symbol inData start, decodeSymbol_nibbleSymbol nibble, nibbleIn_first (s := u) first]
  rfl

/-- Settles O36. -/
theorem symbolCellsMakeOneNibble : Obligations.SymbolCellsMakeOneNibble := by
  refine ⟨fun s bit inData early => ?_, fun s v => runCells_firstSymbol⟩
  rw [cellEvent_shift inData early, shiftIn_eq_append, lineBit_eq_ite]
  rfl

/-- The second symbol of a byte completes and stores it (44_nibble_byte_assembler.md R243). -/
theorem runCells_secondSymbol {s : State} {v : Nat} (nibble : v < 16) (inData : s.framer.fstate = .data)
    (start : s.assembler.nbc = 0) (second : s.assembler.hv = true) :
    runCells (valueCells 6 (nibbleSymbol v)) s = onFramer (noteCell (!(nibbleSymbol v).testBit 0))
      (storeByte (nibblePair s.assembler.hinib (BitVec.ofNat 4 v)) { s with
        assembler := { s.assembler with nibreg := BitVec.ofNat 6 (nibbleSymbol v), nbc := 0, hv := false } }) := by
  let u := onAssembler (setSymbol (BitVec.ofNat 6 (nibbleSymbol v)) 0) s
  rw [runCells_symbol inData start, decodeSymbol_nibbleSymbol nibble, nibbleIn_second (s := u) second]
  rfl

/-- A byte is its high nibble above its low one (20_memory.md R85). -/
theorem nibblePair_eq_append (high low : BitVec 4) : nibblePair high low = high ++ low := by
  rw [nibblePair, ← BitVec.setWidth_append_eq_shiftLeft_setWidth_or, BitVec.setWidth_eq]

theorem nibblePair_toNat_div_mod (b : Byte) :
    nibblePair (BitVec.ofNat 4 (b.toNat / 16)) (BitVec.ofNat 4 (b.toNat % 16)) = b := by
  rw [nibblePair_eq_append]
  refine BitVec.eq_of_toNat_eq ?_
  rw [BitVec.toNat_append, ← Nat.shiftLeft_add_eq_or_of_lt (BitVec.isLt _), Nat.shiftLeft_eq, BitVec.toNat_ofNat,
    BitVec.toNat_ofNat]
  omega

/-- Settles O38: the second symbol finds the first one's nibble; the byte is stored between the two updates of CBIT. -/
theorem byteCellsStoreOneByte : Obligations.ByteCellsStoreOneByte := by
  intro s b inData start first
  have high : b.toNat / 16 < 16 := by omega
  have low : b.toNat % 16 < 16 := Nat.mod_lt _ (by decide)
  let u : State := { s with
    framer := { s.framer with cbit := !((nibbleSymbol (b.toNat / 16)).testBit 0) }
    assembler := { s.assembler with
      nibreg := BitVec.ofNat 6 (nibbleSymbol (b.toNat / 16)), nbc := 0, hinib := BitVec.ofNat 4 (b.toNat / 16)
      hv := true } }
  let stored : State := { s with assembler := { s.assembler with
      nibreg := BitVec.ofNat 6 (nibbleSymbol (b.toNat % 16)), nbc := 0
      hinib := BitVec.ofNat 4 (b.toNat / 16), hv := false } }
  have second := runCells_secondSymbol (s := u) low inData rfl rfl
  have framer := (passive_onFramer (noteCell (!(nibbleSymbol (b.toNat / 16)).testBit 0))).storeByte b stored
  rw [show u.assembler.hinib = BitVec.ofNat 4 (b.toNat / 16) from rfl, nibblePair_toNat_div_mod] at second
  have noted : onFramer (noteCell (!(nibbleSymbol (b.toNat % 16)).testBit 0)) (storeByte b stored)
      = { storeByte b stored with
          framer := { s.framer with cbit := !((nibbleSymbol (b.toNat % 16)).testBit 0) } } := by
    rw [onFramer, storeByte_framer]
    rfl
  rw [byteCells, runCells_append, runCells_firstSymbol high inData start first]
  exact second.trans ((congrArg (onFramer (noteCell (!(nibbleSymbol (b.toNat % 16)).testBit 0))) framer).trans noted)

/-! ### An invalid symbol -/

/-- A symbol of SYMTAB is one a transmitter sends (44_nibble_byte_assembler.md R242). -/
theorem exists_nibbleSymbol_of_symbolNibble :
    ∀ sym : BitVec 6, symbolNibble sym ≠ none → ∃ v < 16, nibbleSymbol v = sym.toNat := by decide

theorem decodeSymbol_invalid {sym : BitVec 6} (invalid : ∀ v, v < 16 → nibbleSymbol v ≠ sym.toNat) (s : State) :
    decodeSymbol sym s = nibbleIn (Config.draw4 s.draws) (noteInvalid sym s) := by
  have outside : symbolNibble sym = none := by
    by_contra inside
    obtain ⟨v, nibble, same⟩ := exists_nibbleSymbol_of_symbolNibble sym inside
    exact invalid v nibble same
  rw [decodeSymbol, outside]

/-- Settles O37: the symbol is noted, and the free nibble goes where a valid one would. -/
theorem invalidSymbolTakesFreeNibble : Obligations.InvalidSymbolTakesFreeNibble := by
  intro s bit inData fifth sym invalid noted
  have shifted : shiftIn s.assembler.nibreg (lineBit bit) = sym := by
    rw [shiftIn_eq_append, lineBit_eq_ite]
  have reported : noteInvalid sym (onAssembler (setSymbol sym 0) s) = noted := by
    have info : (sym.zeroExtend 32).extractLsb' 0 6 = sym := by
      ext i hi
      simp [show i < 32 by omega, BitVec.getLsbD_eq_getElem hi]
    simp only [noteInvalid, report_eq, info]
    rfl
  have cell : cellEvent bit s = onFramer (noteCell bit) (nibbleIn (Config.draw4 s.draws) noted) := by
    rw [cellEvent_sixth inData fifth, shifted, decodeSymbol_invalid invalid, reported]
    rfl
  refine ⟨fun first => ?_, fun second => ?_⟩
  · rw [cell, nibbleIn_first (s := noted) first]
    rfl
  · rw [cell, nibbleIn_second (s := noted) second, nibblePair_eq_append, onFramer, storeByte_framer]
    rfl

end Sys2Proof.Machine

/-! A whole frame byte by byte: how far the assembler is, and the byte that completes it. -/

namespace Sys2Proof.Machine

/-! ### Progress through a frame -/

/-- How many bytes a frame with this header has (44_nibble_byte_assembler.md R246, R247). -/
def frameLength (frame : List Byte) : Nat := if frame.getD 0 0 = 0x00 ∧ frame.getD 1 0 = 0x90 then 146 else 144

/-- The first `k` bytes of the frame are in, all symbols valid. -/
structure FrameProgress (frame : List Byte) (k : Nat) (m : Assembler) : Prop where
  count : m.bcnt.toNat = k
  canonical : m.pay.wf = true
  bytes : ∀ i < k, Memory.read m.pay i = frame.getD i 0
  clean : m.invn = false
  early : k < 2 → m.lenv = false ∧ m.lenco = false
  known : 2 ≤ k → m.lenv = true ∧ m.declen.toNat = 2 * frameLength frame
    ∧ m.lenco = decide (frameLength frame ≠ 146)

/-- The header that is kept is 0x00, 0x90 (44_nibble_byte_assembler.md R246). -/
theorem rawLength_eq_292_iff (h0 h1 : Byte) : rawLength h0 h1 = 292 ↔ h0 = 0x00 ∧ h1 = 0x90 := by
  rw [rawLength_eq]
  bv_omega

/-- The next byte of the frame, once stored, is one more byte of it (44_nibble_byte_assembler.md R245, R246). -/
theorem FrameProgress.stored {frame : List Byte} {k : Nat} {m : Assembler} (progress : FrameProgress frame k m)
    (small : k < 256) : FrameProgress frame (k + 1) (storedAssembler (frame.getD k 0) m) := by
  obtain ⟨count, canonical, bytes, clean, early, known⟩ := progress
  have count' : (m.bcnt + 1).toNat = k + 1 := by rw [toNat_bcnt_succ (by omega), count]
  have reads (i : Nat) (below : i < k + 1) :
      Memory.read (appendByte (frame.getD k 0) m).pay i = frame.getD i 0 := by
    rw [appendByte, Memory.read_write canonical, count]
    split
    · next same => rw [same]
    · exact bytes i (by omega)
  refine ⟨by rw [storedAssembler_bcnt, count'], ?_, fun i below => ?_, by rw [storedAssembler_invn, clean], ?_, ?_⟩
  · rw [storedAssembler_pay]
    exact Memory.write_wf canonical _ _
  · rw [storedAssembler_pay]
    exact reads i below
  · intro first
    have other : m.bcnt + 1 ≠ 2 := fun h => by
      have two : 2 = k + 1 := (congrArg BitVec.toNat h).symm.trans count'
      omega
    rw [storedAssembler_of_not_second _ other]
    exact early (by omega)
  · intro second
    by_cases header : k = 1
    · have two : m.bcnt + 1 = 2 := BitVec.eq_of_toNat_eq (by rw [count', header]; rfl)
      rw [storedAssembler_of_second _ two, lengthFields_eq]
      rw [reads 0 (by omega), reads 1 (by omega)]
      simp only [rawLength_eq_292_iff, frameLength, appendByte, (early (by omega)).2]
      split <;> simp
    · have other : m.bcnt + 1 ≠ 2 := fun h => header (by
        have two : 2 = k + 1 := (congrArg BitVec.toNat h).symm.trans count'
        omega)
      rw [storedAssembler_of_not_second _ other]
      exact known (by omega)

/-- The frame is due exactly when all its bytes are in (44_nibble_byte_assembler.md R249). -/
theorem FrameProgress.frameDue_iff {frame : List Byte} {k : Nat} {m : Assembler}
    (progress : FrameProgress frame k m) : frameDue m ↔ k = frameLength frame := by
  have long : 144 ≤ frameLength frame := by
    unfold frameLength
    split <;> decide
  unfold frameDue
  rw [progress.count]
  rcases Nat.lt_or_ge k 2 with early | later
  · rw [(progress.early early).1]
    simp
    omega
  · obtain ⟨known, declared, -⟩ := progress.known later
    rw [known, declared]
    simp

/-! ### A running session within a frame -/

/-- A running session in Data, at a byte boundary, `k` bytes into the frame. -/
structure InFrame (frame : List Byte) (k : Nat) (s : State) : Prop where
  inData : s.framer.fstate = .data
  running : s.session.res = .running
  fits : frameLength frame ≤ s.cfg.capacity
  small : frameLength frame ≤ 146
  boundary : s.assembler.nbc = 0 ∧ s.assembler.hv = false
  progress : FrameProgress frame k s.assembler

/-- What STORE_BYTE starts from after the twelve cells of a byte (44_nibble_byte_assembler.md R244). -/
def byteSymbols (b : Byte) (m : Assembler) : Assembler :=
  { m with
    nibreg := BitVec.ofNat 6 (nibbleSymbol (b.toNat % 16)), nbc := 0
    hinib := BitVec.ofNat 4 (b.toNat / 16), hv := false }

/-- The cells of a byte store it, and leave framer state and configuration. -/
theorem InFrame.runCells_byte {frame : List Byte} {k : Nat} {s : State} (inFrame : InFrame frame k s) (b : Byte) :
    ∃ u : State, u.assembler = byteSymbols b s.assembler ∧ u.session = s.session ∧ u.cfg = s.cfg
      ∧ (runCells (byteCells b) s).session = (storeByte b u).session
      ∧ (runCells (byteCells b) s).assembler = (storeByte b u).assembler
      ∧ (runCells (byteCells b) s).framer.fstate = .data ∧ (runCells (byteCells b) s).cfg = s.cfg := by
  have stored := byteCellsStoreOneByte s b inFrame.inData inFrame.boundary.1 inFrame.boundary.2
  refine ⟨{ s with assembler := byteSymbols b s.assembler }, rfl, rfl, rfl, ?_⟩
  rw [stored]
  exact ⟨rfl, rfl, inFrame.inData, (storeByte_cellFrame b { s with assembler := byteSymbols b s.assembler }).cfg⟩

/-- The next byte of the frame leaves the session running within it, or with its last byte completes it
(44_nibble_byte_assembler.md R245, R249). -/
theorem InFrame.step {frame : List Byte} {k : Nat} {s : State} (inFrame : InFrame frame k s)
    (below : k < frameLength frame) :
    let t := runCells (byteCells (frame.getD k 0)) s
    FrameProgress frame (k + 1) t.assembler
      ∧ (k + 1 < frameLength frame → InFrame frame (k + 1) t)
      ∧ (k + 1 = frameLength frame → t.session.res = .success ∧ t.session.reslen = t.assembler.bcnt) := by
  intro t
  obtain ⟨u, symbols, session, cfg, session', assembler', inData, cfg'⟩ :=
    inFrame.runCells_byte (frame.getD k 0)
  have small := inFrame.small
  have fits := inFrame.fits
  have before : FrameProgress frame k u.assembler := by
    rw [symbols]
    exact { inFrame.progress with }
  have after := before.stored (by omega)
  have effect := storeByte_effect (frame.getD k 0) u
  rw [← session', ← assembler'] at effect
  have boundary (kept : t.assembler = storedAssembler (frame.getD k 0) u.assembler) :
      t.assembler.nbc = 0 ∧ t.assembler.hv = false := by
    rw [kept, storedAssembler_nbc, storedAssembler_hv, symbols]
    exact ⟨rfl, rfl⟩
  cases effect with
  | overflow full _ _ =>
    rw [before.count, cfg] at full
    omega
  | stored _ kept notDue same =>
    have progress : FrameProgress frame (k + 1) t.assembler := kept ▸ after
    have more : k + 1 ≠ frameLength frame := fun last => notDue (progress.frameDue_iff.mpr last)
    exact ⟨progress, fun _ => ⟨inData, by rw [same, session, inFrame.running], cfg' ▸ fits, small, boundary kept,
      progress⟩, fun last => absurd last more⟩
  | completed _ kept due ends =>
    have progress : FrameProgress frame (k + 1) t.assembler := kept ▸ after
    have last := progress.frameDue_iff.mp due
    have clean : (runCells (byteCells (frame.getD k 0)) s).assembler.invn = false := progress.clean
    refine ⟨progress, fun more => absurd last more.ne, fun _ => ?_⟩
    rw [show t.session = _ from ends, clean]
    exact ⟨rfl, rfl⟩

/-- The bytes that are left complete the frame, by induction on them. -/
theorem InFrame.finish {frame rest : List Byte} {k : Nat} {s : State} (inFrame : InFrame frame k s)
    (split : frame.drop k = rest) (whole : frame.length = frameLength frame) (more : rest ≠ []) :
    let t := runCells (frameCells rest) s
    FrameProgress frame (frameLength frame) t.assembler ∧ t.session.res = .success
      ∧ t.session.reslen = t.assembler.bcnt := by
  induction rest generalizing k s with
  | nil => exact absurd rfl more
  | cons b rest ih =>
    have length : frame.length - k = rest.length + 1 := by rw [← List.length_drop, split, List.length_cons]
    have byte : frame.getD k 0 = b := by
      rw [List.getD_eq_getElem?_getD, ← List.head?_drop, split]
      rfl
    have split' : frame.drop (k + 1) = rest := by rw [← List.tail_drop, split]; rfl
    obtain ⟨progress, continues, completes⟩ := inFrame.step (by omega)
    rw [byte] at progress continues completes
    have cells : runCells (frameCells (b :: rest)) s = runCells (frameCells rest) (runCells (byteCells b) s) := by
      rw [frameCells, List.flatMap_cons, runCells_append]
      rfl
    rw [cells]
    cases rest with
    | nil =>
      have last : k + 1 = frameLength frame := by
        rw [List.length_nil] at length
        omega
      exact ⟨last ▸ progress, completes last⟩
    | cons b' rest' =>
      rw [List.length_cons] at length
      exact ih (continues (by omega)) split' (by nofun)

/-- Settles O42: from the untouched assembler the frame's bytes are all left. -/
theorem frameDecodesToPayload : Obligations.FrameDecodesToPayload := by
  intro s h0 h1 body inData running untouched length fits t
  have expected : frameLength (h0 :: h1 :: body) = body.length + 2 := by
    rw [length]
    unfold frameLength
    simp only [List.getD_cons_zero, List.getD_cons_succ]
    split <;> rfl
  have small : frameLength (h0 :: h1 :: body) ≤ 146 := by
    unfold frameLength
    split <;> decide
  have start : InFrame (h0 :: h1 :: body) 0 s := by
    refine ⟨inData, running, expected ▸ fits, small, ?_, ?_⟩
    · rw [untouched]
      exact ⟨rfl, rfl⟩
    · rw [untouched]
      exact ⟨rfl, rfl, nofun, rfl, fun _ => ⟨rfl, rfl⟩, nofun⟩
  obtain ⟨progress, success, reslen⟩ := start.finish (rest := h0 :: h1 :: body) rfl (by rw [expected]; rfl) (by nofun)
  rw [expected] at progress
  obtain ⟨-, -, coerced⟩ := progress.known (by omega)
  refine ⟨success, (congrArg BitVec.toNat reslen).trans progress.count, coerced.trans ?_, progress.bytes⟩
  unfold frameLength
  simp only [List.getD_cons_zero, List.getD_cons_succ]
  split
  · next header => rw [decide_eq_true header]; rfl
  · next header => rw [decide_eq_false header]; rfl

end Sys2Proof.Machine

/-! A sample sent as two bytes: LOBYTE and the responses take no part in what a sample does. -/

namespace Sys2Proof.Machine

/-- LOBYTE and the responses replaced. -/
def relabel (lobyte : Byte) (resp : List Word) (s : State) : State :=
  { s with session := { s.session with lobyte := lobyte }, resp := resp }

section
variable (lobyte : Byte) (resp : List Word)

theorem passive_relabel : Passive (relabel lobyte resp) :=
  ⟨fun _ => rfl, fun _ => rfl, fun _ => rfl, fun _ _ => rfl, fun _ _ _ => rfl, fun _ _ _ => rfl, fun _ _ => rfl⟩

theorem relabel_cellEvent (bit : Bool) (s : State) :
    cellEvent bit (relabel lobyte resp s) = relabel lobyte resp (cellEvent bit s) := by
  cases state : s.framer.fstate with
  | channelSeize => rw [cellEvent_of_channelSeize state, cellEvent_of_channelSeize (by exact state)]; rfl
  | carrierSignal => rw [cellEvent_of_carrierSignal state, cellEvent_of_carrierSignal (by exact state)]; rfl
  | sync => rw [cellEvent_of_sync state, cellEvent_of_sync (by exact state)]; rfl
  | data =>
    rw [cellEvent_of_data state, cellEvent_of_data (by exact state), (passive_relabel lobyte resp).assembleBit]
    rfl

theorem relabel_wrap (bit : Bool) (s : State) :
    wrap bit (relabel lobyte resp s) = relabel lobyte resp (wrap bit s) := by
  unfold wrap
  by_cases past : wraps s.timing = true
  · rw [if_pos past, if_pos (by exact past)]
    exact relabel_cellEvent lobyte resp bit { s with timing := wrapPhase s.timing }
  · rw [if_neg past, if_neg (by exact past)]

theorem relabel_pipeline (x : BitVec 16) (s : State) :
    pipeline x (relabel lobyte resp s) = relabel lobyte resp (pipeline x s) := by
  have decided : sampleDecision x (relabel lobyte resp s) = sampleDecision x s := rfl
  unfold pipeline
  dsimp only
  rw [decided]
  exact relabel_wrap lobyte resp (sampleDecision x s)
    { s with corr := pushedCorrelator x s, timing := advancedTiming (sampleDecision x s) s }

theorem relabel_silenceGate (x : BitVec 16) (s : State) :
    silenceGate x (relabel lobyte resp s)
      = (relabel lobyte resp (silenceGate x s).1, (silenceGate x s).2) := by
  obtain ⟨unstarted, zero, gate⟩ | ⟨sound, gate⟩ | ⟨started, zero, limit, gate⟩ | ⟨started, zero, below, gate⟩ :=
    silenceGate_cases x s
  · rw [gate, silenceGate, if_pos (by exact unstarted), if_pos zero]
  · rw [gate, silenceGate, if_neg sound, if_neg sound, ite_self]
    rfl
  · have notLeading : (relabel lobyte resp s).session.started ≠ false := ne_of_eq_of_ne started nofun
    rw [gate, silenceGate, if_neg notLeading, if_pos zero]
    exact if_pos limit
  · have notLeading : (relabel lobyte resp s).session.started ≠ false := ne_of_eq_of_ne started nofun
    rw [gate, silenceGate, if_neg notLeading, if_pos zero]
    exact if_neg below

/-- A sample reads neither LOBYTE nor the responses. -/
theorem relabel_sampleStep (x : BitVec 16) {s : State} (running : s.session.res = .running) :
    sampleStep x (relabel lobyte resp s) = relabel lobyte resp (sampleStep x s) := by
  rw [sampleStep_running x (s := relabel lobyte resp s) running, sampleStep_running x running, relabel_silenceGate]
  dsimp only
  split
  · exact relabel_pipeline lobyte resp x _
  · rfl

end

/-- Settles O57: the second byte makes SAMPLE's sample, on a state that differs in LOBYTE and one response. -/
theorem bytePairEqualsSample : Obligations.BytePairEqualsSample := by
  intro s x running idle
  let low := x.extractLsb' 0 8
  let high := x.extractLsb' 8 8
  let first := respond 0 (setPair true low s)
  have sample : high ++ low = x := by
    refine BitVec.eq_of_toNat_eq ?_
    rw [BitVec.toNat_append, ← Nat.shiftLeft_add_eq_or_of_lt low.isLt, Nat.shiftLeft_eq, BitVec.extractLsb'_toNat,
      BitVec.extractLsb'_toNat, Nat.shiftRight_zero, Nat.shiftRight_eq_div_pow]
    omega
  have latched : setPair false low first = relabel low (s.resp ++ [0]) s := by
    rw [relabel, ← idle]
    rfl
  refine ⟨first, _, _, ?_, exec_byte_running (s := first) running high, exec_sample_running running idle x, ?_⟩
  · rw [exec_byte_running running, byteIn_first idle]
  · have resp := (sampleStep_portsKept x s).resp
    rw [byteIn_second (s := first) rfl, show first.session.lobyte = low from rfl, sample, latched,
      relabel_sampleStep low _ x running, respond_resp, resp]
    rfl

end Sys2Proof.Machine

/-! READ of the register map: each register's content as the concatenation 10_state.md R60 lists. -/

namespace Sys2Proof.Machine

/-! ### Fields joined by OR and by concatenation -/

/-- STATUS as the concatenation of its fields (10_state.md R61). -/
theorem statusWord_eq_append (s : State) :
    statusWord s = flagBit (decide (s.session.res ≠ .running)) ++ 0#12 ++ flagBit s.assembler.hv
      ++ flagBit s.framer.cbit ++ flagBit s.timing.dbit ++ 0#2 ++ flagBit s.events.errc ++ flagBit s.assembler.invn
      ++ flagBit s.assembler.lenco ++ flagBit s.assembler.lenv ++ flagBit s.session.pend
      ++ flagBit s.session.started ++ 0#2 ++ fstateCode s.framer.fstate ++ 0#1 ++ resCode s.session.res := by
  have flag (b : Bool) : (flagBit b)[0] = b := by cases b <;> rfl
  have done : s.done = decide (s.session.res ≠ .running) := by
    rw [Bool.eq_iff_iff, done_iff, decide_eq_true_iff]
  refine BitVec.eq_of_getLsbD_eq fun i hi => ?_
  rw [getLsbD_statusWord s hi, statusFlag, done]
  simp only [BitVec.getLsbD_append]
  interval_cases i <;> simp [flag, BitVec.getLsbD_of_ge]

theorem nibst_eq_append (nibreg : BitVec 6) (nbc : BitVec 3) (hinib : BitVec 4) :
    nibreg.zeroExtend 32 ||| (nbc.zeroExtend 32 <<< 8) ||| (hinib.zeroExtend 32 <<< 16)
      = 0#12 ++ hinib ++ 0#5 ++ nbc ++ 0#2 ++ nibreg := by
  refine BitVec.eq_of_getLsbD_eq fun i hi => ?_
  simp only [BitVec.getLsbD_or, BitVec.getLsbD_shiftLeft, BitVec.truncate_eq_setWidth, BitVec.getLsbD_setWidth,
    BitVec.getLsbD_append, BitVec.getLsbD_zero]
  interval_cases i <;> simp [BitVec.getLsbD_of_ge]

theorem event_eq_append (evcode : BitVec 4) (evsym : BitVec 6) :
    evcode.zeroExtend 32 ||| (evsym.zeroExtend 32 <<< 8) = 0#18 ++ evsym ++ 0#4 ++ evcode := by
  refine BitVec.eq_of_getLsbD_eq fun i hi => ?_
  simp only [BitVec.getLsbD_or, BitVec.getLsbD_shiftLeft, BitVec.truncate_eq_setWidth, BitVec.getLsbD_setWidth,
    BitVec.getLsbD_append, BitVec.getLsbD_zero]
  interval_cases i <;> simp [BitVec.getLsbD_of_ge]

theorem eventCode_eq_evcodeCode (e : Event) : eventCode e = evcodeCode e := by
  cases e <;> rfl

/-! ### The register map -/

/-- The map is the named registers, each at its address with its content (10_state.md R60). -/
theorem registerContents_eq (s : State) :
    registerContents s = allRegs.map (fun r => ((regAddress r).toNat, regValue s r)) := by
  simp only [registerContents, allRegs, List.map_cons, List.map_nil, List.cons_append, List.nil_append, regValue]
  rw [statusWord_eq_append, nibst_eq_append, event_eq_append, eventCode_eq_evcodeCode]
  simp (disch := decide) only [field16, field9, BitVec.truncate_eq_setWidth, BitVec.setWidth_eq_append]
  rfl

theorem lookup_map_pair {α : Type} (f : α → Nat) (g : α → Word) (l : List α) (a : Nat) :
    (l.map (fun r => (f r, g r))).lookup a = (l.find? (fun r => f r == a)).map g := by
  induction l with
  | nil => rfl
  | cons r l ih =>
    rw [List.map_cons, List.lookup_cons, List.find?_cons, ih, Bool.beq_comm]
    cases f r == a <;> rfl

/-- Settles O12. -/
theorem readAnswersRegisterMap : Obligations.ReadAnswersRegisterMap := by
  intro s a low
  have sameAddress (r : RegName) : ((regAddress r).toNat == a.toNat) = (regAddress r == a) := by
    rw [Bool.eq_iff_iff, beq_iff_eq, beq_iff_eq, BitVec.toNat_inj]
  have found : ((registerContents s).lookup a.toNat).getD 0 = regRead a s := by
    rw [registerContents_eq, lookup_map_pair, regRead]
    simp only [sameAddress]
    cases allRegs.find? (fun r => regAddress r == a) <;> rfl
  rw [exec_read, readSpace, if_pos low, found, respond]

/-- Settles O59: no register's content and no payload byte reads the ring or the tables. -/
theorem readHidesRingAndTables : Obligations.ReadHidesRingAndTables := by
  intro s a ring rom
  have registers (r : RegName) :
      regValue { s with corr := { s.corr with ring := ring }, cfg := { s.cfg with rom := rom } } r = regValue s r := by
    cases r <;> rfl
  unfold readSpace regRead payWindow
  simp only [registers]

end Sys2Proof.Machine

/-! The assembler's operands: each range is exactly what the operand's bits hold, and outside it the line is refused. -/

namespace Sys2Proof.Machine

/-! ### Refusal -/

/-- A line whose range is `p` expands within it and is refused outside it (30_encoding.md R116). -/
theorem assembleLine_by_range {l : Line} {p q : Prop} [Decidable p] (range : l.wellFormed = true ↔ p)
    (expands : p → assembleLine l = some (expandLine l) → q) : if p then q else assembleLine l = none := by
  split
  · next within => exact expands within (if_pos (range.mpr within))
  · next outside => exact if_neg (mt range.mp outside)

/-- Two lines with the same range. -/
theorem assembleLine_by_range₂ {l l' : Line} {p q : Prop} [Decidable p] (range : l.wellFormed = true ↔ p)
    (range' : l'.wellFormed = true ↔ p)
    (expands : p → assembleLine l = some (expandLine l) → assembleLine l' = some (expandLine l') → q) :
    if p then q else assembleLine l = none ∧ assembleLine l' = none := by
  split
  · next within => exact expands within (if_pos (range.mpr within)) (if_pos (range'.mpr within))
  · next outside => exact ⟨if_neg (mt range.mp outside), if_neg (mt range'.mp outside)⟩

/-- A natural operand in range. -/
theorem isUpTo_iff (hi : Nat) (l : Literal) : l.isUpTo hi = true ↔ 0 ≤ l.value ∧ l.value ≤ hi := by
  simp [Literal.isUpTo]

/-- A decimal sample in range is its pattern's value (30_encoding.md R116). -/
theorem toInt_samplePattern_dec {v : Int} (low : -32768 ≤ v) (high : v ≤ 32767) :
    (samplePattern (.dec v)).toInt = v := by
  change (BitVec.ofInt 16 v).toInt = v
  rw [BitVec.toInt_ofInt, Int.bmod_eq_of_le] <;> omega

/-- A natural operand in range is the value of its bits. -/
theorem toNat_ofInt {w : Nat} {v : Int} (low : 0 ≤ v) (high : v < 2 ^ w) : ((BitVec.ofInt w v).toNat : Int) = v := by
  rw [BitVec.toNat_ofInt, Int.toNat_of_nonneg]
  · exact Int.emod_eq_of_lt low (by exact_mod_cast high)
  · exact Int.emod_nonneg _ (by positivity)

/-! ### Repeated commands -/

theorem flatten_replicate_pair {α : Type} (n : Nat) (a : α) :
    (List.replicate n [a, a]).flatten = List.replicate (2 * n) a := by
  have pair : [a, a] = List.replicate 2 a := rfl
  rw [pair, List.flatten_replicate_replicate, Nat.mul_comm]

/-- SAMPLES is SAMPLE operand by operand (30_encoding.md R117). -/
theorem mapM_assembleLine_sample (ls : List Literal) :
    ls.mapM (fun l => assembleLine (.sample l))
      = if ls.all Literal.isSample then some (ls.map fun l => [.sample (samplePattern l)]) else none := by
  induction ls with
  | nil => rfl
  | cons l ls ih =>
    rw [List.mapM_cons, ih, List.all_cons]
    cases h : l.isSample <;> cases hs : ls.all Literal.isSample <;>
      simp [assembleLine, Line.wellFormed, expandLine, h]

/-- SAMPLES with at least one operand is SAMPLE operand by operand; without one it is refused (30_encoding.md R117,
log entry 14). -/
theorem assembleLine_samples (ls : List Literal) :
    assembleLine (.samples ls)
      = if ls = [] then none else (ls.mapM (fun l => assembleLine (.sample l))).map List.flatten := by
  rw [mapM_assembleLine_sample]
  cases ls with
  | nil => rfl
  | cons l ls =>
    rw [if_neg (List.cons_ne_nil l ls), assembleLine]
    simp only [Line.wellFormed, List.isEmpty_cons, Bool.not_false, Bool.true_and]
    split
    · rw [Option.map_some, expandLine, ← List.flatMap_def, List.map_eq_flatMap]
    · rfl

/-- Settles O60: each line's range, and in it the operand's value. -/
theorem assemblerTruncatesNothing : Obligations.AssemblerTruncatesNothing := by
  refine ⟨fun v => ?_, fun v => ?_, assembleLine_samples, fun l => ?_, fun l => ?_, fun l => ?_, fun l => ?_⟩
  · have range : (Literal.dec v).isSample = true ↔ -32768 ≤ v ∧ v ≤ 32767 := by simp [Literal.isSample]
    exact assembleLine_by_range₂ range range fun within sample pcm =>
      ⟨_, toInt_samplePattern_dec within.1 within.2, sample, pcm⟩
  · have range : (Literal.hex v).isSample = true ↔ v ≤ 0xFFFF := by simp [Literal.isSample]
    refine assembleLine_by_range₂ range range fun within sample pcm => ⟨_, ?_, sample, pcm⟩
    exact_mod_cast toNat_ofInt (w := 16) (v := v) (by omega) (by omega)
  · have range : l.isCount = true ↔ 0 ≤ l.value := by simp [Literal.isCount]
    refine assembleLine_by_range₂ range range fun within zeros pcmZeros =>
      ⟨l.value.toNat, Int.toNat_of_nonneg within, zeros, ?_⟩
    rw [pcmZeros, expandLine, flatten_replicate_pair]
  · exact assembleLine_by_range (isUpTo_iff 0xFF l) fun within line =>
      ⟨_, line, toNat_ofInt within.1 (by omega)⟩
  · exact assembleLine_by_range (isUpTo_iff 0x1FF l) fun within line =>
      ⟨_, line, toNat_ofInt within.1 (by omega)⟩
  · refine assembleLine_by_range (isUpTo_iff 0xFF l) fun within line => ⟨_, line, ?_⟩
    have index := toNat_ofInt (w := 9) within.1 (by omega)
    rw [readAddress, BitVec.toNat_add, Nat.mod_eq_of_lt (by simp; omega), Nat.cast_add, index]
    rfl

end Sys2Proof.Machine

/-! The reset tables: sines and cosines of multiples of 9 degrees, bounded by their squares, between the midpoints on
either side of the table's entries (40_correlator.md R152). -/

namespace Sys2Proof.Machine

/-! ### Nearest numbers to a real -/

/-- `y`, in steps of 2^-k, is within half a step of `q`. -/
def Near (y : ℝ) (q k : ℕ) : Prop := 2 * (q : ℝ) - 1 ≤ y * 2 ^ (k + 1) ∧ y * 2 ^ (k + 1) ≤ 2 * (q : ℝ) + 1

theorem unitsPerOne_cast {e k : ℕ} (scale : k + e = 1074) : (unitsPerOne : ℝ) = 2 ^ k * 2 ^ e := by
  rw [unitsPerOne_eq_two_pow, ← scale, pow_add, Nat.cast_mul, Nat.cast_pow, Nat.cast_pow, Nat.cast_ofNat]

/-- Around a significand between its neighbours of the same exponent, no other number comes within one step. -/
theorem fValue_outside {e q : ℕ} (hidden : hiddenBit < q) (fits : q < 2 * hiddenBit) (c : B64) :
    fValue c ≤ ((q - 1) * 2 ^ e : ℕ) ∨ fValue c = (q * 2 ^ e : ℕ) ∨ ((q + 1) * 2 ^ e : ℕ) ≤ fValue c := by
  have below := unitsOfMag_eq (e := e) (q := q - 1) (by omega) (.inr (by omega))
  have here := unitsOfMag_eq (e := e) fits.le (.inr hidden.le)
  have above := unitsOfMag_eq (e := e) (q := q + 1) (by omega) (.inr (by omega))
  have negative : -(unitsOfMag (fMag c) : ℤ) ≤ ((q - 1) * 2 ^ e : ℕ) := by
    have : (0 : ℤ) ≤ unitsOfMag (fMag c) := Int.natCast_nonneg _
    have : (0 : ℤ) ≤ ((q - 1) * 2 ^ e : ℕ) := Int.natCast_nonneg _
    omega
  rw [fValue_eq]
  split
  · exact .inl negative
  · rw [← below, ← here, ← above]
    rcases lt_trichotomy (fMag c) (e * hiddenBit + q) with lower | same | higher
    · exact .inl (Int.ofNat_le.mpr (unitsOfMag_strictMono.monotone (by omega)))
    · exact .inr (.inl (by rw [same]))
    · exact .inr (.inr (Int.ofNat_le.mpr (unitsOfMag_strictMono.monotone (by omega))))

/-- A real within half a step of a significand is nearest to it. -/
theorem isNearestReal_of_near {y : ℝ} {r : B64} {e q k : ℕ} (encoding : Nonneg r (e * hiddenBit + q))
    (hidden : hiddenBit < q) (fits : q < 2 * hiddenBit) (scale : k + e = 1074) (near : Near y q k) :
    IsNearestReal y r := by
  refine ⟨encoding.isFinite, fun c _ => ?_⟩
  have value : (fValue r : ℝ) = q * 2 ^ e := by
    rw [encoding.value, unitsOfMag_eq fits.le (.inr hidden.le)]
    push_cast
    rfl
  have outside : (fValue c : ℝ) ≤ (q - 1) * 2 ^ e ∨ (fValue c : ℝ) = q * 2 ^ e
      ∨ (q + 1) * 2 ^ e ≤ (fValue c : ℝ) := by
    have positive : 1 ≤ q := by omega
    obtain lower | same | higher := fValue_outside (e := e) hidden fits c
    · refine .inl ?_
      have cast : ((q - 1 : ℕ) : ℝ) = q - 1 := by rw [Nat.cast_sub positive, Nat.cast_one]
      rw [← cast]
      exact_mod_cast lower
    · exact .inr (.inl (by exact_mod_cast same))
    · exact .inr (.inr (by exact_mod_cast higher))
  obtain ⟨lower, upper⟩ := near
  have step : (0 : ℝ) < 2 ^ e := by positivity
  rw [value, unitsPerOne_cast scale, ← mul_assoc]
  rw [pow_succ, ← mul_assoc] at lower upper
  generalize (2 : ℝ) ^ e = p at step outside ⊢
  generalize y * 2 ^ k = z at lower upper ⊢
  have above : z * p ≤ q * p + p / 2 := by nlinarith
  have below : q * p - p / 2 ≤ z * p := by nlinarith
  have within : |q * p - z * p| ≤ p / 2 := abs_le.mpr ⟨by linarith, by linarith⟩
  obtain less | same | greater := outside
  · rw [abs_sub_comm (fValue c : ℝ)]
    exact within.trans ((by linarith : p / 2 ≤ z * p - fValue c).trans (le_abs_self _))
  · rw [same]
  · exact within.trans ((by linarith : p / 2 ≤ fValue c - z * p).trans (le_abs_self _))

/-- A real that is a binary64 number is nearest to it. -/
theorem isNearestReal_of_exact {x : ℝ} {r : B64} (finite : fIsFinite r = true)
    (exact : (fValue r : ℝ) = x * unitsPerOne) : IsNearestReal x r := by
  refine ⟨finite, fun c _ => ?_⟩
  rw [exact, sub_self, abs_zero]
  exact abs_nonneg _

theorem fMag_fNeg (r : B64) : fMag (fNeg r) = fMag r := by
  have low : (fNeg r).extractLsb' 0 63 = r.extractLsb' 0 63 := by
    rw [fNeg, BitVec.extractLsb'_xor, show (0x8000000000000000 : B64).extractLsb' 0 63 = 0 by decide]
    exact BitVec.xor_zero
  rw [fMag, fMag, low]

theorem fSign_fNeg (r : B64) : fSign (fNeg r) = !fSign r := by
  rw [fSign, fNeg, BitVec.msb_xor, show (0x8000000000000000 : B64).msb = true by decide, Bool.xor_true]
  rfl

/-- The other sign is the other value. -/
theorem fValue_fNeg (r : B64) : fValue (fNeg r) = -fValue r := by
  rw [fValue_eq, fValue_eq, fMag_fNeg, fSign_fNeg]
  cases fSign r <;> simp

theorem fNeg_fNeg (r : B64) : fNeg (fNeg r) = r := by
  rw [fNeg, fNeg, BitVec.xor_assoc, BitVec.xor_self, BitVec.xor_zero]

theorem fIsFinite_fNeg (r : B64) : fIsFinite (fNeg r) = fIsFinite r := by
  rw [Bool.eq_iff_iff, fIsFinite_iff, fIsFinite_iff, fMag_fNeg]

/-- The numbers lie symmetrically around zero. -/
theorem IsNearestReal.neg {x : ℝ} {r : B64} (h : IsNearestReal x r) : IsNearestReal (-x) (fNeg r) := by
  obtain ⟨finite, nearest⟩ := h
  refine ⟨by rw [fIsFinite_fNeg, finite], fun c hc => ?_⟩
  have mirrored := nearest (fNeg c) (by rw [fIsFinite_fNeg, hc])
  rw [fValue_fNeg] at mirrored ⊢
  push_cast at mirrored ⊢
  have flip (y : ℝ) : |-y - -x * unitsPerOne| = |y - x * unitsPerOne| := by rw [← abs_neg]; congr 1; ring
  calc |-(fValue r : ℝ) - -x * unitsPerOne| = |(fValue r : ℝ) - x * unitsPerOne| := flip _
    _ ≤ |-(fValue c : ℝ) - x * unitsPerOne| := mirrored
    _ = |(fValue c : ℝ) - -x * unitsPerOne| := by rw [← flip, neg_neg]

/-! ### Bounds by squares -/

/-- A bound on a square bounds its root. -/
theorem near_of_sq {v w : ℝ} {q k : ℕ} (nonneg : 0 ≤ v) (square : v ^ 2 = w) (positive : 1 ≤ q)
    (lower : (2 * (q : ℝ) - 1) ^ 2 ≤ w * (2 ^ (k + 1)) ^ 2)
    (upper : w * (2 ^ (k + 1)) ^ 2 ≤ (2 * (q : ℝ) + 1) ^ 2) :
    Near v q k := by
  have one : (1 : ℝ) ≤ q := by exact_mod_cast positive
  have scaled : 0 ≤ v * 2 ^ (k + 1) := by positivity
  rw [← square, ← mul_pow] at lower upper
  exact ⟨(sq_le_sq₀ (by linarith) scaled).mp lower, (sq_le_sq₀ scaled (by linarith)).mp upper⟩

theorem near_sqrt_five : Near (√5) 2972244156170875819511122449999190928 120 :=
  near_of_sq (Real.sqrt_nonneg 5) (Real.sq_sqrt (by norm_num)) (by norm_num) (by norm_num) (by norm_num)

/-- sin 18° = (√5 − 1) / 4. -/
theorem sin_pi_div_ten : Real.sin (Real.pi / 10) = (√5 - 1) / 4 := by
  have square : √5 ^ 2 = 5 := Real.sq_sqrt (by norm_num)
  rw [← Real.cos_pi_div_two_sub, show Real.pi / 2 - Real.pi / 10 = 2 * (Real.pi / 5) by ring, Real.cos_two_mul,
    Real.cos_pi_div_five]
  linarith

theorem cos_pi_div_ten_sq : Real.cos (Real.pi / 10) ^ 2 = (5 + √5) / 8 := by
  have square : √5 ^ 2 = 5 := Real.sq_sqrt (by norm_num)
  rw [Real.cos_sq', sin_pi_div_ten]
  linarith

theorem sin_pi_div_five_sq : Real.sin (Real.pi / 5) ^ 2 = (5 - √5) / 8 := by
  have square : √5 ^ 2 = 5 := Real.sq_sqrt (by norm_num)
  rw [Real.sin_sq, Real.cos_pi_div_five]
  linarith

/-- cos² and sin² of half an angle. -/
theorem cos_half_sq (x : ℝ) : Real.cos (x / 2) ^ 2 = (1 + Real.cos x) / 2 := by
  rw [Real.cos_sq, mul_div_cancel₀ x two_ne_zero]
  ring

theorem sin_half_sq (x : ℝ) : Real.sin (x / 2) ^ 2 = (1 - Real.cos x) / 2 := by
  rw [Real.sin_sq, cos_half_sq]
  ring

/-- Sine and cosine of an angle up to 90° are not negative. -/
theorem sin_cos_nonneg {x : ℝ} (low : 0 ≤ x) (high : x ≤ Real.pi / 2) : 0 ≤ Real.sin x ∧ 0 ≤ Real.cos x :=
  ⟨Real.sin_nonneg_of_nonneg_of_le_pi low (by linarith [Real.pi_pos]),
    Real.cos_nonneg_of_neg_pi_div_two_le_of_le (by linarith [Real.pi_pos]) high⟩

/-! ### The magnitudes of the tables -/

theorem near_cos_pi_div_five : Near (Real.cos (Real.pi / 5)) 7286977268806824 53 := by
  obtain ⟨lower, upper⟩ := near_sqrt_five
  rw [Real.cos_pi_div_five]
  norm_num [Near] at lower upper ⊢
  constructor <;> linarith

theorem near_sin_pi_div_ten : Near (Real.sin (Real.pi / 10)) 5566755282872656 54 := by
  obtain ⟨lower, upper⟩ := near_sqrt_five
  rw [sin_pi_div_ten]
  norm_num [Near] at lower upper ⊢
  constructor <;> linarith

theorem near_cos_pi_div_ten : Near (Real.cos (Real.pi / 10)) 1234541940462100748584069171124893 110 := by
  obtain ⟨lower, upper⟩ := near_sqrt_five
  exact near_of_sq (sin_cos_nonneg (by positivity) (by linarith [Real.pi_pos])).2 cos_pi_div_ten_sq (by norm_num)
    (by norm_num at *; linarith) (by norm_num at *; linarith)

theorem near_sin_pi_div_five : Near (Real.sin (Real.pi / 5)) 762988879742827329550220741209062 110 := by
  obtain ⟨lower, upper⟩ := near_sqrt_five
  exact near_of_sq (sin_cos_nonneg (by positivity) (by linarith [Real.pi_pos])).1 sin_pi_div_five_sq (by norm_num)
    (by norm_num at *; linarith) (by norm_num at *; linarith)

theorem cos_three_pi_div_ten : Real.cos (3 * Real.pi / 10) = Real.sin (Real.pi / 5) := by
  rw [← Real.cos_pi_div_two_sub]
  congr 1
  ring

theorem near_cos_pi_div_twenty : Near (Real.cos (Real.pi / 10 / 2)) 8896305685324892 53 := by
  obtain ⟨lower, upper⟩ := near_cos_pi_div_ten
  exact near_of_sq (sin_cos_nonneg (by positivity) (by linarith [Real.pi_pos])).2 (cos_half_sq _) (by norm_num)
    (by norm_num at *; linarith) (by norm_num at *; linarith)

theorem near_sin_pi_div_twenty : Near (Real.sin (Real.pi / 10 / 2)) 5636145587704693 55 := by
  obtain ⟨lower, upper⟩ := near_cos_pi_div_ten
  exact near_of_sq (sin_cos_nonneg (by positivity) (by linarith [Real.pi_pos])).1 (sin_half_sq _) (by norm_num)
    (by norm_num at *; linarith) (by norm_num at *; linarith)

theorem near_cos_three_pi_div_twenty : Near (Real.cos (3 * Real.pi / 10 / 2)) 8025473300638829 53 := by
  obtain ⟨lower, upper⟩ := near_sin_pi_div_five
  rw [← cos_three_pi_div_ten] at lower upper
  exact near_of_sq (sin_cos_nonneg (by positivity) (by linarith [Real.pi_pos])).2 (cos_half_sq _) (by norm_num)
    (by norm_num at *; linarith) (by norm_num at *; linarith)

theorem near_sin_three_pi_div_twenty : Near (Real.sin (3 * Real.pi / 10 / 2)) 8178365781827073 54 := by
  obtain ⟨lower, upper⟩ := near_sin_pi_div_five
  rw [← cos_three_pi_div_ten] at lower upper
  exact near_of_sq (sin_cos_nonneg (by positivity) (by linarith [Real.pi_pos])).1 (sin_half_sq _) (by norm_num)
    (by norm_num at *; linarith) (by norm_num at *; linarith)

/-- cos 45° = sin 45°, whose square is 1/2. -/
theorem near_sqrt_two_div_two : Near (√2 / 2) 6369051672525773 53 :=
  near_of_sq (w := 1 / 2) (by positivity) (by rw [div_pow, Real.sq_sqrt zero_le_two]; norm_num) (by norm_num)
    (by norm_num) (by norm_num)

theorem nearest_cos_pi_div_five : IsNearestReal (Real.cos (Real.pi / 5)) 0x3FE9E3779B97F4A8 :=
  isNearestReal_of_near (e := 1021) ⟨by decide, by decide, by decide⟩ (by decide) (by decide) (by decide)
    near_cos_pi_div_five

theorem nearest_cos_pi_div_ten : IsNearestReal (Real.cos (Real.pi / 10)) 0x3FEE6F0E134454FF :=
  isNearestReal_of_near (e := 1021) (q := 8566355544790271) (k := 53) ⟨by decide, by decide, by decide⟩
    (by decide) (by decide) (by decide) <| by
      obtain ⟨lower, upper⟩ := near_cos_pi_div_ten
      norm_num [Near] at *
      constructor <;> linarith

theorem nearest_sin_pi_div_five : IsNearestReal (Real.sin (Real.pi / 5)) 0x3FE2CF2304755A5E :=
  isNearestReal_of_near (e := 1021) (q := 5294298886396510) (k := 53) ⟨by decide, by decide, by decide⟩
    (by decide) (by decide) (by decide) <| by
      obtain ⟨lower, upper⟩ := near_sin_pi_div_five
      norm_num [Near] at *
      constructor <;> linarith

theorem nearest_sin_pi_div_ten : IsNearestReal (Real.sin (Real.pi / 10)) 0x3FD3C6EF372FE950 :=
  isNearestReal_of_near (e := 1020) ⟨by decide, by decide, by decide⟩ (by decide) (by decide) (by decide)
    near_sin_pi_div_ten

theorem nearest_cos_pi_div_twenty : IsNearestReal (Real.cos (Real.pi / 10 / 2)) 0x3FEF9B24942FE45C :=
  isNearestReal_of_near (e := 1021) ⟨by decide, by decide, by decide⟩ (by decide) (by decide) (by decide)
    near_cos_pi_div_twenty

theorem nearest_sin_pi_div_twenty : IsNearestReal (Real.sin (Real.pi / 10 / 2)) 0x3FC4060B67A85375 :=
  isNearestReal_of_near (e := 1019) ⟨by decide, by decide, by decide⟩ (by decide) (by decide) (by decide)
    near_sin_pi_div_twenty

theorem nearest_cos_three_pi_div_twenty : IsNearestReal (Real.cos (3 * Real.pi / 10 / 2)) 0x3FEC83201D3D2C6D :=
  isNearestReal_of_near (e := 1021) ⟨by decide, by decide, by decide⟩ (by decide) (by decide) (by decide)
    near_cos_three_pi_div_twenty

theorem nearest_sin_three_pi_div_twenty : IsNearestReal (Real.sin (3 * Real.pi / 10 / 2)) 0x3FDD0E2E2B44DE01 :=
  isNearestReal_of_near (e := 1020) ⟨by decide, by decide, by decide⟩ (by decide) (by decide) (by decide)
    near_sin_three_pi_div_twenty

theorem nearest_sqrt_two_div_two : IsNearestReal (√2 / 2) 0x3FE6A09E667F3BCD :=
  isNearestReal_of_near (e := 1021) ⟨by decide, by decide, by decide⟩ (by decide) (by decide) (by decide)
    near_sqrt_two_div_two

theorem nearest_zero : IsNearestReal 0 0 := by
  refine isNearestReal_of_exact (by decide) ?_
  rw [show fValue 0 = 0 by decide, Int.cast_zero, zero_mul]

theorem nearest_one : IsNearestReal 1 fOne := by
  refine isNearestReal_of_exact nonneg_fOne.isFinite ?_
  rw [nonneg_fOne.value, unitsOfMag_one, Int.cast_natCast, one_mul]

/-! ### The tables -/

/-- The mark tone turns 54° a sample. -/
theorem nearest_mark (i : ℕ) (hi : i < 6) :
    IsNearestReal (Real.sin (2 * Real.pi * 1200 * i / 8000)) (State.reset.cfg.rom.ms.getD i 0)
      ∧ IsNearestReal (Real.cos (2 * Real.pi * 1200 * i / 8000)) (State.reset.cfg.rom.mc.getD i 0) := by
  interval_cases i
  · rw [Nat.cast_zero, mul_zero, zero_div, Real.sin_zero, Real.cos_zero]
    exact ⟨nearest_zero, nearest_one⟩
  · rw [show 2 * Real.pi * 1200 * (1 : ℕ) / 8000 = Real.pi / 2 - Real.pi / 5 by push_cast; ring,
      Real.sin_pi_div_two_sub, Real.cos_pi_div_two_sub]
    exact ⟨nearest_cos_pi_div_five, nearest_sin_pi_div_five⟩
  · rw [show 2 * Real.pi * 1200 * (2 : ℕ) / 8000 = Real.pi / 10 + Real.pi / 2 by push_cast; ring,
      Real.sin_add_pi_div_two, Real.cos_add_pi_div_two]
    exact ⟨nearest_cos_pi_div_ten, nearest_sin_pi_div_ten.neg⟩
  · rw [show 2 * Real.pi * 1200 * (3 : ℕ) / 8000 = Real.pi - Real.pi / 10 by push_cast; ring,
      Real.sin_pi_sub, Real.cos_pi_sub]
    exact ⟨nearest_sin_pi_div_ten, nearest_cos_pi_div_ten.neg⟩
  · rw [show 2 * Real.pi * 1200 * (4 : ℕ) / 8000 = Real.pi / 5 + Real.pi by push_cast; ring,
      Real.sin_add_pi, Real.cos_add_pi]
    exact ⟨nearest_sin_pi_div_five.neg, nearest_cos_pi_div_five.neg⟩
  · rw [show 2 * Real.pi * 1200 * (5 : ℕ) / 8000 = Real.pi / 2 + Real.pi by push_cast; ring,
      Real.sin_add_pi, Real.cos_add_pi, Real.sin_pi_div_two, Real.cos_pi_div_two, neg_zero]
    exact ⟨nearest_one.neg, nearest_zero⟩

/-- The space tone turns 99° a sample. -/
theorem nearest_space (i : ℕ) (hi : i < 6) :
    IsNearestReal (Real.sin (2 * Real.pi * 2200 * i / 8000)) (State.reset.cfg.rom.ss.getD i 0)
      ∧ IsNearestReal (Real.cos (2 * Real.pi * 2200 * i / 8000)) (State.reset.cfg.rom.sc.getD i 0) := by
  interval_cases i
  · rw [Nat.cast_zero, mul_zero, zero_div, Real.sin_zero, Real.cos_zero]
    exact ⟨nearest_zero, nearest_one⟩
  · rw [show 2 * Real.pi * 2200 * (1 : ℕ) / 8000 = Real.pi / 10 / 2 + Real.pi / 2 by push_cast; ring,
      Real.sin_add_pi_div_two, Real.cos_add_pi_div_two]
    exact ⟨nearest_cos_pi_div_twenty, nearest_sin_pi_div_twenty.neg⟩
  · rw [show 2 * Real.pi * 2200 * (2 : ℕ) / 8000 = Real.pi / 10 + Real.pi by push_cast; ring,
      Real.sin_add_pi, Real.cos_add_pi]
    exact ⟨nearest_sin_pi_div_ten.neg, nearest_cos_pi_div_ten.neg⟩
  · rw [show 2 * Real.pi * 2200 * (3 : ℕ) / 8000 = 3 * Real.pi / 10 / 2 + Real.pi / 2 + Real.pi by push_cast; ring,
      Real.sin_add_pi, Real.cos_add_pi, Real.sin_add_pi_div_two, Real.cos_add_pi_div_two, neg_neg]
    exact ⟨nearest_cos_three_pi_div_twenty.neg, nearest_sin_three_pi_div_twenty⟩
  · rw [show 2 * Real.pi * 2200 * (4 : ℕ) / 8000 = Real.pi / 5 + 2 * Real.pi by push_cast; ring,
      Real.sin_add_two_pi, Real.cos_add_two_pi]
    exact ⟨nearest_sin_pi_div_five, nearest_cos_pi_div_five⟩
  · rw [show 2 * Real.pi * 2200 * (5 : ℕ) / 8000 = Real.pi / 4 + Real.pi / 2 + 2 * Real.pi by push_cast; ring,
      Real.sin_add_two_pi, Real.cos_add_two_pi, Real.sin_add_pi_div_two, Real.cos_add_pi_div_two,
      Real.sin_pi_div_four, Real.cos_pi_div_four]
    exact ⟨nearest_sqrt_two_div_two, nearest_sqrt_two_div_two.neg⟩

/-- Settles O30: every angle of the tables is at most 45° away from a multiple of 90°, by a multiple of 9°, and the sines
and cosines there are nested square roots. -/
theorem bellTablesAreNearestSines : Obligations.BellTablesAreNearestSines := by
  intro i hi
  obtain ⟨markSine, markCosine⟩ := nearest_mark i hi
  obtain ⟨spaceSine, spaceCosine⟩ := nearest_space i hi
  exact ⟨markSine, markCosine, spaceSine, spaceCosine⟩

end Sys2Proof.Machine
